-- ==== Sys2Proof/Word.lean ====
section
/-!
DEFINITION. The word types of the 2650 core (spec/00_scope.md R4, R6).
-/

namespace Sys2Proof

/-- A register, a status register, a memory byte or a port byte: 8 bits (R4). -/
abbrev Byte := BitVec 8

/-- An address of the memory space, the program counter or a return-address stack entry: 15 bits (R4). -/
abbrev Addr := BitVec 15

end Sys2Proof
end

