-- ==== Sys2Proof/Syntax.lean ====
section
/-!
DEFINITION. The instructions of the 2650 core, one constructor per mnemonic of spec/opcode_table.json (a mnemonic whose
opcodes are no aligned block of four has several rows there and one constructor here; log 15), with the operand shapes
of the formats Z, I, R, A and B (spec/30_encoding.md R64 to R68).
-/

namespace Sys2Proof

/-- The register number of an opcode's r field (R63), reached through the active bank (R12). -/
inductive Reg where
  | r0
  | r1
  | r2
  | r3
  deriving DecidableEq, Repr

/-- The branch condition selector of an opcode's low two bits (R63, R165). -/
inductive Cond where
  | zero
  | plus
  | minus
  | always
  deriving DecidableEq, Repr

/-- The index control of a format-A operand (R67). -/
inductive IndexMode where
  | none
  | autoInc
  | autoDec
  | indexed
  deriving DecidableEq, Repr

/-- The argument byte of format R (R66): the indirect bit and the 7-bit displacement. -/
structure RelArg where
  ind : Bool
  disp : BitVec 7
  deriving DecidableEq, Repr

/-- The two argument bytes of format A (R67): indirect bit, index control, 13-bit in-page address. -/
structure AbsArg where
  ind : Bool
  idx : IndexMode
  addr : BitVec 13
  deriving DecidableEq, Repr

/-- The two argument bytes of format B (R68): indirect bit and 15-bit address. -/
structure BraArg where
  ind : Bool
  addr : Addr
  deriving DecidableEq, Repr

/-- The instructions (R70). The rule of each is named beside it. -/
inductive Instr where
  -- load and store: R100 to R107
  | lodz (r : Reg)
  | lodi (r : Reg) (imm : Byte)
  | lodr (r : Reg) (a : RelArg)
  | loda (r : Reg) (a : AbsArg)
  | strz (r : Reg)
  | strr (r : Reg) (a : RelArg)
  | stra (r : Reg) (a : AbsArg)
  -- logical: R110 to R121
  | andz (r : Reg)
  | andi (r : Reg) (imm : Byte)
  | andr (r : Reg) (a : RelArg)
  | anda (r : Reg) (a : AbsArg)
  | eorz (r : Reg)
  | eori (r : Reg) (imm : Byte)
  | eorr (r : Reg) (a : RelArg)
  | eora (r : Reg) (a : AbsArg)
  | iorz (r : Reg)
  | iori (r : Reg) (imm : Byte)
  | iorr (r : Reg) (a : RelArg)
  | iora (r : Reg) (a : AbsArg)
  -- add, subtract, compare, decimal adjust: R126 to R141
  | addz (r : Reg)
  | addi (r : Reg) (imm : Byte)
  | addr (r : Reg) (a : RelArg)
  | adda (r : Reg) (a : AbsArg)
  | subz (r : Reg)
  | subi (r : Reg) (imm : Byte)
  | subr (r : Reg) (a : RelArg)
  | suba (r : Reg) (a : AbsArg)
  | comz (r : Reg)
  | comi (r : Reg) (imm : Byte)
  | comr (r : Reg) (a : RelArg)
  | coma (r : Reg) (a : AbsArg)
  | dar (r : Reg)
  -- rotate: R146, R147
  | rrl (r : Reg)
  | rrr (r : Reg)
  -- status and test: R150 to R160
  | spsu
  | spsl
  | lpsu
  | lpsl
  | cpsu (mask : Byte)
  | cpsl (mask : Byte)
  | ppsu (mask : Byte)
  | ppsl (mask : Byte)
  | tpsu (mask : Byte)
  | tpsl (mask : Byte)
  | tmi (r : Reg) (mask : Byte)
  -- branches: R167 to R178
  | bctr (v : Cond) (a : RelArg)
  | bcta (v : Cond) (a : BraArg)
  | bcfr (v : Cond) (a : RelArg)
  | bcfa (v : Cond) (a : BraArg)
  | zbrr (a : RelArg)
  | bxa (a : BraArg)
  | brnr (r : Reg) (a : RelArg)
  | brna (r : Reg) (a : BraArg)
  | birr (r : Reg) (a : RelArg)
  | bira (r : Reg) (a : BraArg)
  | bdrr (r : Reg) (a : RelArg)
  | bdra (r : Reg) (a : BraArg)
  -- subroutine calls: R179 to R186
  | bstr (v : Cond) (a : RelArg)
  | bsta (v : Cond) (a : BraArg)
  | bsfr (v : Cond) (a : RelArg)
  | bsfa (v : Cond) (a : BraArg)
  | zbsr (a : RelArg)
  | bsxa (a : BraArg)
  | bsnr (r : Reg) (a : RelArg)
  | bsna (r : Reg) (a : BraArg)
  -- returns: R187, R188
  | retc (v : Cond)
  | rete (v : Cond)
  -- input and output: R195 to R200
  | redc (r : Reg)
  | redd (r : Reg)
  | rede (r : Reg) (port : Byte)
  | wrtc (r : Reg)
  | wrtd (r : Reg)
  | wrte (r : Reg) (port : Byte)
  -- control: R203 to R205
  | halt
  | nop
  | illegal (opcode : Byte)
  deriving DecidableEq, Repr

end Sys2Proof
end

