-- ==== Sys2Proof/WellFormed.lean ====
section
/-!
DEFINITION. Which terms of Instr stand for an encoding (spec/30_encoding.md R71, R72): every term but those whose
opcode is another instruction.
-/

namespace Sys2Proof

/-- The ten opcode values that are no instruction (R72, R205). -/
def illegalOpcodes : List Byte := [0x10, 0x11, 0x90, 0x91, 0xB6, 0xB7, 0xC4, 0xC5, 0xC6, 0xC7]

/-- ANDZ and STRZ exclude register 0, whose opcodes are HALT and NOP; the condition-false groups exclude the selector 3,
whose opcodes are ZBRR, BXA, ZBSR and BSXA (R71); ILLEGAL carries one of its ten opcodes (R72). Every other operand takes
every value of its field (R74). -/
def Instr.wf : Instr → Bool
  | .andz r => r != .r0
  | .strz r => r != .r0
  | .bcfr v _ => v != .always
  | .bcfa v _ => v != .always
  | .bsfr v _ => v != .always
  | .bsfa v _ => v != .always
  | .illegal op => illegalOpcodes.contains op
  | .lodz _ => true
  | .lodi _ _ => true
  | .lodr _ _ => true
  | .loda _ _ => true
  | .strr _ _ => true
  | .stra _ _ => true
  | .andi _ _ => true
  | .andr _ _ => true
  | .anda _ _ => true
  | .eorz _ => true
  | .eori _ _ => true
  | .eorr _ _ => true
  | .eora _ _ => true
  | .iorz _ => true
  | .iori _ _ => true
  | .iorr _ _ => true
  | .iora _ _ => true
  | .addz _ => true
  | .addi _ _ => true
  | .addr _ _ => true
  | .adda _ _ => true
  | .subz _ => true
  | .subi _ _ => true
  | .subr _ _ => true
  | .suba _ _ => true
  | .comz _ => true
  | .comi _ _ => true
  | .comr _ _ => true
  | .coma _ _ => true
  | .dar _ => true
  | .rrl _ => true
  | .rrr _ => true
  | .spsu => true
  | .spsl => true
  | .lpsu => true
  | .lpsl => true
  | .cpsu _ => true
  | .cpsl _ => true
  | .ppsu _ => true
  | .ppsl _ => true
  | .tpsu _ => true
  | .tpsl _ => true
  | .tmi _ _ => true
  | .bctr _ _ => true
  | .bcta _ _ => true
  | .zbrr _ => true
  | .bxa _ => true
  | .brnr _ _ => true
  | .brna _ _ => true
  | .birr _ _ => true
  | .bira _ _ => true
  | .bdrr _ _ => true
  | .bdra _ _ => true
  | .bstr _ _ => true
  | .bsta _ _ => true
  | .zbsr _ => true
  | .bsxa _ => true
  | .bsnr _ _ => true
  | .bsna _ _ => true
  | .retc _ => true
  | .rete _ => true
  | .redc _ => true
  | .redd _ => true
  | .rede _ _ => true
  | .wrtc _ => true
  | .wrtd _ => true
  | .wrte _ _ => true
  | .halt => true
  | .nop => true

end Sys2Proof
end

