-- ==== Sys2Proof/Decode.lean ====
section
/-!
DEFINITION. The decoder of spec/30_encoding.md R60 to R74, total on any bytes, and the encoder that writes an
instruction from the same formats. The opcode map is R70; the argument bytes are split by R65 to R68.
-/

namespace Sys2Proof

/-! ### Fields -/

/-- Register number of the r field (R63). -/
def Reg.ofBits (b : BitVec 2) : Reg :=
  match b.toNat with
  | 0 => .r0
  | 1 => .r1
  | 2 => .r2
  | _ => .r3

/-- The r field of a register number (R63). -/
def Reg.bits : Reg → BitVec 2
  | .r0 => 0
  | .r1 => 1
  | .r2 => 2
  | .r3 => 3

/-- Condition selector of opcode bits 1:0 (R165). -/
def Cond.ofBits (b : BitVec 2) : Cond :=
  match b.toNat with
  | 0 => .zero
  | 1 => .plus
  | 2 => .minus
  | _ => .always

/-- Opcode bits 1:0 of a condition selector (R165). -/
def Cond.bits : Cond → BitVec 2
  | .zero => 0
  | .plus => 1
  | .minus => 2
  | .always => 3

/-- Index control: 00 none, 01 auto-increment, 10 auto-decrement, 11 indexed (R67). -/
def IndexMode.ofBits (b : BitVec 2) : IndexMode :=
  match b.toNat with
  | 0 => .none
  | 1 => .autoInc
  | 2 => .autoDec
  | _ => .indexed

/-- The two bits of an index control (R67). -/
def IndexMode.bits : IndexMode → BitVec 2
  | .none => 0
  | .autoInc => 1
  | .autoDec => 2
  | .indexed => 3

/-- Argument byte of format R: bit 7 indirect, bits 6:0 displacement (R66). -/
def RelArg.ofByte (b : Byte) : RelArg :=
  ⟨b.getLsbD 7, b.extractLsb' 0 7⟩

/-- The argument byte of format R (R66). -/
def RelArg.byte (a : RelArg) : Byte :=
  BitVec.ofBool a.ind ++ a.disp

/-- Argument bytes of format A: bit 7 indirect, bits 6:5 index control, bits 4:0 and the second byte the address, high
part first (R67, R46). -/
def AbsArg.ofBytes (hi lo : Byte) : AbsArg :=
  ⟨hi.getLsbD 7, IndexMode.ofBits (hi.extractLsb' 5 2), hi.extractLsb' 0 5 ++ lo⟩

/-- The high argument byte of format A (R67). -/
def AbsArg.hi (a : AbsArg) : Byte :=
  BitVec.ofBool a.ind ++ a.idx.bits ++ a.addr.extractLsb' 8 5

/-- The low argument byte of format A (R67). -/
def AbsArg.lo (a : AbsArg) : Byte :=
  a.addr.extractLsb' 0 8

/-- Argument bytes of format B: bit 7 indirect, the other fifteen bits the address, high part first (R68, R46). -/
def BraArg.ofBytes (hi lo : Byte) : BraArg :=
  ⟨hi.getLsbD 7, hi.extractLsb' 0 7 ++ lo⟩

/-- The high argument byte of format B (R68). -/
def BraArg.hi (a : BraArg) : Byte :=
  BitVec.ofBool a.ind ++ a.addr.extractLsb' 8 7

/-- The low argument byte of format B (R68). -/
def BraArg.lo (a : BraArg) : Byte :=
  a.addr.extractLsb' 0 8

/-! ### The decoder -/

/-- The instruction of an opcode byte and the two bytes that follow it (R70, R74): the group is bits 7:2, the member
bits 1:0. Bytes that the format has no room for are not looked at. -/
def decodeBytes (op b1 b2 : Byte) : Instr :=
  let low := op.extractLsb' 0 2
  let r := Reg.ofBits low
  let v := Cond.ofBits low
  match (op &&& 0xFC).toNat with
  | 0x00 => .lodz r
  | 0x04 => .lodi r b1
  | 0x08 => .lodr r (.ofByte b1)
  | 0x0C => .loda r (.ofBytes b1 b2)
  | 0x10 =>
    match r with
    | .r0 => .illegal op
    | .r1 => .illegal op
    | .r2 => .spsu
    | .r3 => .spsl
  | 0x14 => .retc v
  | 0x18 => .bctr v (.ofByte b1)
  | 0x1C => .bcta v (.ofBytes b1 b2)
  | 0x20 => .eorz r
  | 0x24 => .eori r b1
  | 0x28 => .eorr r (.ofByte b1)
  | 0x2C => .eora r (.ofBytes b1 b2)
  | 0x30 => .redc r
  | 0x34 => .rete v
  | 0x38 => .bstr v (.ofByte b1)
  | 0x3C => .bsta v (.ofBytes b1 b2)
  | 0x40 =>
    match r with
    | .r0 => .halt
    | .r1 => .andz .r1
    | .r2 => .andz .r2
    | .r3 => .andz .r3
  | 0x44 => .andi r b1
  | 0x48 => .andr r (.ofByte b1)
  | 0x4C => .anda r (.ofBytes b1 b2)
  | 0x50 => .rrr r
  | 0x54 => .rede r b1
  | 0x58 => .brnr r (.ofByte b1)
  | 0x5C => .brna r (.ofBytes b1 b2)
  | 0x60 => .iorz r
  | 0x64 => .iori r b1
  | 0x68 => .iorr r (.ofByte b1)
  | 0x6C => .iora r (.ofBytes b1 b2)
  | 0x70 => .redd r
  | 0x74 =>
    match r with
    | .r0 => .cpsu b1
    | .r1 => .cpsl b1
    | .r2 => .ppsu b1
    | .r3 => .ppsl b1
  | 0x78 => .bsnr r (.ofByte b1)
  | 0x7C => .bsna r (.ofBytes b1 b2)
  | 0x80 => .addz r
  | 0x84 => .addi r b1
  | 0x88 => .addr r (.ofByte b1)
  | 0x8C => .adda r (.ofBytes b1 b2)
  | 0x90 =>
    match r with
    | .r0 => .illegal op
    | .r1 => .illegal op
    | .r2 => .lpsu
    | .r3 => .lpsl
  | 0x94 => .dar r
  | 0x98 =>
    match v with
    | .zero => .bcfr .zero (.ofByte b1)
    | .plus => .bcfr .plus (.ofByte b1)
    | .minus => .bcfr .minus (.ofByte b1)
    | .always => .zbrr (.ofByte b1)
  | 0x9C =>
    match v with
    | .zero => .bcfa .zero (.ofBytes b1 b2)
    | .plus => .bcfa .plus (.ofBytes b1 b2)
    | .minus => .bcfa .minus (.ofBytes b1 b2)
    | .always => .bxa (.ofBytes b1 b2)
  | 0xA0 => .subz r
  | 0xA4 => .subi r b1
  | 0xA8 => .subr r (.ofByte b1)
  | 0xAC => .suba r (.ofBytes b1 b2)
  | 0xB0 => .wrtc r
  | 0xB4 =>
    match r with
    | .r0 => .tpsu b1
    | .r1 => .tpsl b1
    | .r2 => .illegal op
    | .r3 => .illegal op
  | 0xB8 =>
    match v with
    | .zero => .bsfr .zero (.ofByte b1)
    | .plus => .bsfr .plus (.ofByte b1)
    | .minus => .bsfr .minus (.ofByte b1)
    | .always => .zbsr (.ofByte b1)
  | 0xBC =>
    match v with
    | .zero => .bsfa .zero (.ofBytes b1 b2)
    | .plus => .bsfa .plus (.ofBytes b1 b2)
    | .minus => .bsfa .minus (.ofBytes b1 b2)
    | .always => .bsxa (.ofBytes b1 b2)
  | 0xC0 =>
    match r with
    | .r0 => .nop
    | .r1 => .strz .r1
    | .r2 => .strz .r2
    | .r3 => .strz .r3
  | 0xC8 => .strr r (.ofByte b1)
  | 0xCC => .stra r (.ofBytes b1 b2)
  | 0xD0 => .rrl r
  | 0xD4 => .wrte r b1
  | 0xD8 => .birr r (.ofByte b1)
  | 0xDC => .bira r (.ofBytes b1 b2)
  | 0xE0 => .comz r
  | 0xE4 => .comi r b1
  | 0xE8 => .comr r (.ofByte b1)
  | 0xEC => .coma r (.ofBytes b1 b2)
  | 0xF0 => .wrtd r
  | 0xF4 => .tmi r b1
  | 0xF8 => .bdrr r (.ofByte b1)
  | 0xFC => .bdra r (.ofBytes b1 b2)
  | _ => .illegal op -- the one group left, 0xC4 to 0xC7

/-! ### The encoder -/

/-- An opcode byte: the group's base with two low bits. -/
def opcode (base : Byte) (low : BitVec 2) : Byte :=
  base ||| low.setWidth 8

/-- A format-Z instruction (R64). -/
def encZ (base : Byte) (low : BitVec 2) : List Byte :=
  [opcode base low]

/-- A format-I instruction (R65). -/
def encI (base : Byte) (low : BitVec 2) (imm : Byte) : List Byte :=
  [opcode base low, imm]

/-- A format-R instruction (R66). -/
def encR (base : Byte) (low : BitVec 2) (a : RelArg) : List Byte :=
  [opcode base low, a.byte]

/-- A format-A instruction (R67). -/
def encA (base : Byte) (low : BitVec 2) (a : AbsArg) : List Byte :=
  [opcode base low, a.hi, a.lo]

/-- A format-B instruction (R68). -/
def encB (base : Byte) (low : BitVec 2) (a : BraArg) : List Byte :=
  [opcode base low, a.hi, a.lo]

/-- The bytes of an instruction, first byte first (R70). -/
def encode : Instr → List Byte
  | .lodz r => encZ 0x00 r.bits
  | .lodi r imm => encI 0x04 r.bits imm
  | .lodr r a => encR 0x08 r.bits a
  | .loda r a => encA 0x0C r.bits a
  | .strz r => encZ 0xC0 r.bits
  | .strr r a => encR 0xC8 r.bits a
  | .stra r a => encA 0xCC r.bits a
  | .andz r => encZ 0x40 r.bits
  | .andi r imm => encI 0x44 r.bits imm
  | .andr r a => encR 0x48 r.bits a
  | .anda r a => encA 0x4C r.bits a
  | .eorz r => encZ 0x20 r.bits
  | .eori r imm => encI 0x24 r.bits imm
  | .eorr r a => encR 0x28 r.bits a
  | .eora r a => encA 0x2C r.bits a
  | .iorz r => encZ 0x60 r.bits
  | .iori r imm => encI 0x64 r.bits imm
  | .iorr r a => encR 0x68 r.bits a
  | .iora r a => encA 0x6C r.bits a
  | .addz r => encZ 0x80 r.bits
  | .addi r imm => encI 0x84 r.bits imm
  | .addr r a => encR 0x88 r.bits a
  | .adda r a => encA 0x8C r.bits a
  | .subz r => encZ 0xA0 r.bits
  | .subi r imm => encI 0xA4 r.bits imm
  | .subr r a => encR 0xA8 r.bits a
  | .suba r a => encA 0xAC r.bits a
  | .comz r => encZ 0xE0 r.bits
  | .comi r imm => encI 0xE4 r.bits imm
  | .comr r a => encR 0xE8 r.bits a
  | .coma r a => encA 0xEC r.bits a
  | .dar r => encZ 0x94 r.bits
  | .rrl r => encZ 0xD0 r.bits
  | .rrr r => encZ 0x50 r.bits
  | .spsu => encZ 0x10 2
  | .spsl => encZ 0x10 3
  | .lpsu => encZ 0x90 2
  | .lpsl => encZ 0x90 3
  | .cpsu m => encI 0x74 0 m
  | .cpsl m => encI 0x74 1 m
  | .ppsu m => encI 0x74 2 m
  | .ppsl m => encI 0x74 3 m
  | .tpsu m => encI 0xB4 0 m
  | .tpsl m => encI 0xB4 1 m
  | .tmi r m => encI 0xF4 r.bits m
  | .bctr v a => encR 0x18 v.bits a
  | .bcta v a => encB 0x1C v.bits a
  | .bcfr v a => encR 0x98 v.bits a
  | .bcfa v a => encB 0x9C v.bits a
  | .zbrr a => encR 0x98 3 a
  | .bxa a => encB 0x9C 3 a
  | .brnr r a => encR 0x58 r.bits a
  | .brna r a => encB 0x5C r.bits a
  | .birr r a => encR 0xD8 r.bits a
  | .bira r a => encB 0xDC r.bits a
  | .bdrr r a => encR 0xF8 r.bits a
  | .bdra r a => encB 0xFC r.bits a
  | .bstr v a => encR 0x38 v.bits a
  | .bsta v a => encB 0x3C v.bits a
  | .bsfr v a => encR 0xB8 v.bits a
  | .bsfa v a => encB 0xBC v.bits a
  | .zbsr a => encR 0xB8 3 a
  | .bsxa a => encB 0xBC 3 a
  | .bsnr r a => encR 0x78 r.bits a
  | .bsna r a => encB 0x7C r.bits a
  | .retc v => encZ 0x14 v.bits
  | .rete v => encZ 0x34 v.bits
  | .redc r => encZ 0x30 r.bits
  | .redd r => encZ 0x70 r.bits
  | .rede r p => encI 0x54 r.bits p
  | .wrtc r => encZ 0xB0 r.bits
  | .wrtd r => encZ 0xF0 r.bits
  | .wrte r p => encI 0xD4 r.bits p
  | .halt => encZ 0x40 0
  | .nop => encZ 0xC0 0
  | .illegal op => [op]

/-! ### Bytes in, instruction out -/

/-- How many bytes an instruction has (R60): the length of its encoding. -/
def Instr.length (i : Instr) : Nat :=
  (encode i).length

/-- The length in bytes of the instruction an opcode byte begins (R60): a function of that byte alone. -/
def opcodeLength (op : Byte) : Nat :=
  (decodeBytes op 0 0).length

/-- Why a list of bytes is no instruction. There is no invalid opcode (R74): only bytes can be missing. -/
inductive DecodeError where
  /-- there is no opcode byte -/
  | noOpcode
  /-- the opcode's format has more argument bytes than the list holds -/
  | missingArgument
  deriving DecidableEq, Repr

/-- What the decoder answers: an instruction and the bytes after it, or a rejection by name. -/
inductive Decoded where
  | instr (i : Instr) (rest : List Byte)
  | rejected (why : DecodeError)
  deriving DecidableEq, Repr

/-- Decode the first instruction of a list of bytes (R60, R70, R74). -/
def decode : List Byte → Decoded
  | [] => .rejected .noOpcode
  | op :: bytes =>
    match opcodeLength op with
    | 1 => .instr (decodeBytes op 0 0) bytes
    | 2 =>
      match bytes with
      | b1 :: rest => .instr (decodeBytes op b1 0) rest
      | _ => .rejected .missingArgument
    | _ =>
      match bytes with
      | b1 :: b2 :: rest => .instr (decodeBytes op b1 b2) rest
      | _ => .rejected .missingArgument

/-- The three bytes of an instruction whose bits are w, byte 0 in bits 7:0; bits at and above nbits are 0. -/
def wordBytes (nbits w : Nat) : List Byte :=
  let u := w % 2 ^ nbits
  [BitVec.ofNat 8 u, BitVec.ofNat 8 (u / 256), BitVec.ofNat 8 (u / 65536)]

/-- The instruction the decoder reads from an instruction whose bits are w, as spec/opcode_table.json numbers them. -/
def decodeTableWord (nbits w : Nat) : Option Instr :=
  match decode (wordBytes nbits w) with
  | .instr i _ => some i
  | .rejected _ => none

/-! ### Words written out from the encodings of R64 to R70, bit by bit: every constructor -/

theorem decode_words_load_store :
    decode [0b00000000] = .instr (.lodz .r0) [] ∧
      decode [0b00000111, 0b10000010] = .instr (.lodi .r3 0x82) [] ∧
      decode [0b00001010, 0b10110011] = .instr (.lodr .r2 ⟨true, 0x33⟩) [] ∧
      decode [0b00001101, 0b00101100, 0b11111111] = .instr (.loda .r1 ⟨false, .autoInc, 0x0CFF⟩) [] ∧
      decode [0b11000011] = .instr (.strz .r3) [] ∧
      decode [0b11001011, 0b01111000] = .instr (.strr .r3 ⟨false, 0x78⟩) [] ∧
      decode [0b11001110, 0b11011001, 0b11100011] = .instr (.stra .r2 ⟨true, .autoDec, 0x19E3⟩) [] := by
  decide

theorem decode_words_logical :
    decode [0b00100010] = .instr (.eorz .r2) [] ∧
      decode [0b00100101, 0b01000101] = .instr (.eori .r1 0x45) [] ∧
      decode [0b00101000, 0b10110000] = .instr (.eorr .r0 ⟨true, 0x30⟩) [] ∧
      decode [0b00101111, 0b00011111, 0b11100110] = .instr (.eora .r3 ⟨false, .none, 0x1FE6⟩) [] ∧
      decode [0b01000011] = .instr (.andz .r3) [] ∧
      decode [0b01000100, 0b10100000] = .instr (.andi .r0 0xA0) [] ∧
      decode [0b01001011, 0b00011000] = .instr (.andr .r3 ⟨false, 0x18⟩) [] ∧
      decode [0b01001110, 0b11100101, 0b11100111] = .instr (.anda .r2 ⟨true, .indexed, 0x05E7⟩) [] ∧
      decode [0b01100001] = .instr (.iorz .r1) [] ∧
      decode [0b01100100, 0b11010110] = .instr (.iori .r0 0xD6) [] ∧
      decode [0b01101011, 0b01110001] = .instr (.iorr .r3 ⟨false, 0x71⟩) [] ∧
      decode [0b01101110, 0b11001000, 0b00010000] = .instr (.iora .r2 ⟨true, .autoDec, 0x0810⟩) [] := by
  decide

theorem decode_words_arithmetic :
    decode [0b10000010] = .instr (.addz .r2) [] ∧
      decode [0b10000101, 0b00100011] = .instr (.addi .r1 0x23) [] ∧
      decode [0b10001000, 0b11010100] = .instr (.addr .r0 ⟨true, 0x54⟩) [] ∧
      decode [0b10001111, 0b01001010, 0b01010101] = .instr (.adda .r3 ⟨false, .autoDec, 0x0A55⟩) [] ∧
      decode [0b10010111] = .instr (.dar .r3) [] ∧
      decode [0b10100010] = .instr (.subz .r2) [] ∧
      decode [0b10100101, 0b00011000] = .instr (.subi .r1 0x18) [] ∧
      decode [0b10101000, 0b11001010] = .instr (.subr .r0 ⟨true, 0x4A⟩) [] ∧
      decode [0b10101111, 0b01010000, 0b10101101] = .instr (.suba .r3 ⟨false, .autoDec, 0x10AD⟩) [] ∧
      decode [0b11100001] = .instr (.comz .r1) [] ∧
      decode [0b11100100, 0b11110111] = .instr (.comi .r0 0xF7) [] ∧
      decode [0b11101011, 0b01110100] = .instr (.comr .r3 ⟨false, 0x74⟩) [] ∧
      decode [0b11101110, 0b10100011, 0b00000000] = .instr (.coma .r2 ⟨true, .autoInc, 0x0300⟩) [] := by
  decide

theorem decode_words_rotate :
    decode [0b01010001] = .instr (.rrr .r1) [] ∧
      decode [0b11010001] = .instr (.rrl .r1) [] := by
  decide

theorem decode_words_status :
    decode [0b00010010] = .instr .spsu [] ∧
      decode [0b00010011] = .instr .spsl [] ∧
      decode [0b01110100, 0b01000010] = .instr (.cpsu 0x42) [] ∧
      decode [0b01110101, 0b11000100] = .instr (.cpsl 0xC4) [] ∧
      decode [0b01110110, 0b00110110] = .instr (.ppsu 0x36) [] ∧
      decode [0b01110111, 0b11111110] = .instr (.ppsl 0xFE) [] ∧
      decode [0b10010010] = .instr .lpsu [] ∧
      decode [0b10010011] = .instr .lpsl [] ∧
      decode [0b10110100, 0b00011111] = .instr (.tpsu 0x1F) [] ∧
      decode [0b10110101, 0b00001010] = .instr (.tpsl 0x0A) [] ∧
      decode [0b11110100, 0b11100010] = .instr (.tmi .r0 0xE2) [] := by
  decide

theorem decode_words_branch :
    decode [0b00010101] = .instr (.retc .plus) [] ∧
      decode [0b00011000, 0b10110100] = .instr (.bctr .zero ⟨true, 0x34⟩) [] ∧
      decode [0b00011111, 0b00000000, 0b10001001] = .instr (.bcta .always ⟨false, 0x0089⟩) [] ∧
      decode [0b00110101] = .instr (.rete .plus) [] ∧
      decode [0b00111000, 0b10000001] = .instr (.bstr .zero ⟨true, 0x01⟩) [] ∧
      decode [0b00111111, 0b00010101, 0b01000001] = .instr (.bsta .always ⟨false, 0x1541⟩) [] ∧
      decode [0b01011011, 0b01111110] = .instr (.brnr .r3 ⟨false, 0x7E⟩) [] ∧
      decode [0b01011110, 0b11111110, 0b01010111] = .instr (.brna .r2 ⟨true, 0x7E57⟩) [] ∧
      decode [0b01111000, 0b11111100] = .instr (.bsnr .r0 ⟨true, 0x7C⟩) [] ∧
      decode [0b01111111, 0b00100101, 0b11111100] = .instr (.bsna .r3 ⟨false, 0x25FC⟩) [] ∧
      decode [0b10011000, 0b10010101] = .instr (.bcfr .zero ⟨true, 0x15⟩) [] ∧
      decode [0b10011011, 0b01101001] = .instr (.zbrr ⟨false, 0x69⟩) [] ∧
      decode [0b10011100, 0b10011100, 0b10110010] = .instr (.bcfa .zero ⟨true, 0x1CB2⟩) [] ∧
      decode [0b10011111, 0b00111100, 0b11011010] = .instr (.bxa ⟨false, 0x3CDA⟩) [] ∧
      decode [0b10111000, 0b11101101] = .instr (.bsfr .zero ⟨true, 0x6D⟩) [] ∧
      decode [0b10111011, 0b01110101] = .instr (.zbsr ⟨false, 0x75⟩) [] ∧
      decode [0b10111100, 0b11111101, 0b11010100] = .instr (.bsfa .zero ⟨true, 0x7DD4⟩) [] ∧
      decode [0b10111111, 0b01101110, 0b10001010] = .instr (.bsxa ⟨false, 0x6E8A⟩) [] ∧
      decode [0b11011011, 0b00100110] = .instr (.birr .r3 ⟨false, 0x26⟩) [] ∧
      decode [0b11011110, 0b10111000, 0b10001001] = .instr (.bira .r2 ⟨true, 0x3889⟩) [] ∧
      decode [0b11111011, 0b01010000] = .instr (.bdrr .r3 ⟨false, 0x50⟩) [] ∧
      decode [0b11111110, 0b11011011, 0b10000111] = .instr (.bdra .r2 ⟨true, 0x5B87⟩) [] := by
  decide

theorem decode_words_io_misc :
    decode [0b00010000] = .instr (.illegal 0x10) [] ∧
      decode [0b00110010] = .instr (.redc .r2) [] ∧
      decode [0b01000000] = .instr .halt [] ∧
      decode [0b01010100, 0b00000111] = .instr (.rede .r0 0x07) [] ∧
      decode [0b01110001] = .instr (.redd .r1) [] ∧
      decode [0b10010000] = .instr (.illegal 0x90) [] ∧
      decode [0b10110010] = .instr (.wrtc .r2) [] ∧
      decode [0b10110111] = .instr (.illegal 0xB7) [] ∧
      decode [0b11000000] = .instr .nop [] ∧
      decode [0b11000100] = .instr (.illegal 0xC4) [] ∧
      decode [0b11010100, 0b01111000] = .instr (.wrte .r0 0x78) [] ∧
      decode [0b11110001] = .instr (.wrtd .r1) [] := by
  decide

end Sys2Proof
end

