-- ==== Sys2Proof/Machine/Addr.lean ====
section
/-!
DEFINITION. Address arithmetic of the effective-address calculator (spec/40_addressing.md R93): page and offset of an
address, and every wrap the core makes.
-/

namespace Sys2Proof.Machine

/-- The two page bits 14:13 of an address (R4, R15). -/
def pageOf (a : Addr) : BitVec 2 :=
  a.extractLsb' 13 2

/-- The 13-bit in-page offset of an address (R4, R15). -/
def offsetOf (a : Addr) : BitVec 13 :=
  a.extractLsb' 0 13

/-- page + offset (R15). -/
def mkAddr (page : BitVec 2) (offset : BitVec 13) : Addr :=
  page ++ offset

/-- `wrapadd(a, k)`: add k to the offset, wrapping inside the page of a (R88). -/
def wrapAdd (a : Addr) (k : BitVec 13) : Addr :=
  mkAddr (pageOf a) (offsetOf a + k)

/-- The next byte in the same page, where the second byte of a pointer lies (R84, R47). -/
def nextInPage (a : Addr) : Addr :=
  wrapAdd a 1

/-- The address of a two-byte pointer, high byte first; bit 7 of the high byte is dropped (R46, R84). -/
def pointerValue (hi lo : Byte) : Addr :=
  (hi ++ lo).setWidth 15

/-- A displacement, sign-extended to an offset: `sext_7` of R6, modulo 8192 (R81). -/
def dispOffset (disp : BitVec 7) : BitVec 13 :=
  disp.signExtend 13

/-- A relative displacement from an offset, inside a page (R82). -/
def relTarget (page : BitVec 2) (offset : BitVec 13) (disp : BitVec 7) : Addr :=
  mkAddr page (offset + dispOffset disp)

/-- A zero-page-relative displacement: base 0 of page 0 (R83, R217). -/
def zeroTarget (disp : BitVec 7) : Addr :=
  mkAddr 0 (dispOffset disp)

/-- An index added across the whole 15-bit address, as BXA and BSXA do (R90). -/
def fullAdd (a : Addr) (k : Byte) : Addr :=
  a + k.setWidth 15

end Sys2Proof.Machine
end

