-- ==== Sys2Proof/Config.lean ====
section
/-!
DEFINITION. What the spec leaves open: the parameters of spec/00_scope.md R5, as plain data that State carries, and the
free value of a byte that the environment answers (spec/93_implementation_defined.md U15, U20).
-/

namespace Sys2Proof

/-- AUTO_INDEX_ORDER (R5, R88): whether an auto-increment or auto-decrement form steps its index register after
(`post`) or before (`pre`) the index is added. The spec leaves it open (D8). -/
inductive AutoIndexOrder where
  | post
  | pre
  deriving DecidableEq, Repr

/-- DAR_ADJ (R5, R141): the constant that DAR subtracts for each value of the carry and the inter-digit carry; `k01` is
the constant for C = 0, IDC = 1. -/
structure DarTable where
  k00 : Byte
  k01 : Byte
  k10 : Byte
  k11 : Byte
  deriving DecidableEq, Repr

/-- The open parameters that a model takes as arguments (R5). They are part of State, so that every statement over all
states holds for every choice of them; no step changes them. -/
structure Params where
  autoIndex : AutoIndexOrder
  darAdj : DarTable
  deriving DecidableEq, Repr

/-- The default table of R141: subtract six from each digit whose carry flag is 0. -/
def Config.darDefault : DarTable := ⟨0x66, 0x60, 0x06, 0x00⟩

/-- The alternative table of D17, which follows the source's second example to the letter. -/
def Config.darAlternative : DarTable := ⟨0x66, 0x66, 0x06, 0x00⟩

/-- The document's values of the parameters (R5). DESIGN CHOICE for State.reset (log 1, log 2); no statement rests on
it. -/
def Config.documentParams : Params := ⟨.post, Config.darDefault⟩

/-- FREE VALUE: the byte that the environment answers to the n-th byte-returning transaction it is asked (a port read or
an interrupt acknowledge) when State does not list the answer (U15, U20; log 7). Nothing constrains it. -/
opaque Config.freeBusByte : Nat → Byte

/-- FREE VALUE: the cycle cost of an illegal opcode, which no source gives (R205, R253; log 16). -/
opaque Config.illegalCycles : Byte → Nat

end Sys2Proof
end

