-- ==== Sys2Proof/Machine/Flags.lean ====
section
/-!
DEFINITION. The two status registers' fields, the condition code and every flag computation (spec/10_state.md R17 to R26,
43_arithmetic.md, 44_rotate.md, 45_status.md).
-/

namespace Sys2Proof.Machine

/-! ### Fields of a status byte -/

/-- A status byte with bit n replaced. -/
def setBit (p : Byte) (n : Nat) (b : Bool) : Byte :=
  if b then p ||| (1#8 <<< n) else p &&& ~~~(1#8 <<< n)

/-- PSL.C, bit 0: carry, after a subtract the not-borrow (R17, R20). -/
def pslC (p : Byte) : Bool := p.getLsbD 0

/-- PSL.COM, bit 1: 1 is the unsigned compare (R17, R23). -/
def pslCom (p : Byte) : Bool := p.getLsbD 1

/-- PSL.OVF, bit 2 (R17, R20). -/
def pslOvf (p : Byte) : Bool := p.getLsbD 2

/-- PSL.WC, bit 3: with carry (R17, R22). -/
def pslWc (p : Byte) : Bool := p.getLsbD 3

/-- PSL.RS, bit 4: the selected register bank (R17, R11). -/
def pslRs (p : Byte) : Bool := p.getLsbD 4

/-- PSL.IDC, bit 5: inter-digit carry (R17, R21). -/
def pslIdc (p : Byte) : Bool := p.getLsbD 5

/-- PSL.CC, bits 7:6: the condition code (R17, R19). -/
def pslCc (p : Byte) : BitVec 2 := p.extractLsb' 6 2

/-- PSL with a new condition code, every other bit kept (R20 `set_cc`). -/
def withCc (p : Byte) (c : BitVec 2) : Byte := c ++ p.extractLsb' 0 6

/-- PSU.SP, bits 2:0: the stack pointer (R18, R27). -/
def psuSp (u : Byte) : BitVec 3 := u.extractLsb' 0 3

/-- PSU with a new stack pointer, every other bit kept (R28). -/
def withSp (u : Byte) (sp : BitVec 3) : Byte := u.extractLsb' 3 5 ++ sp

/-- PSU.II, bit 5: interrupts inhibited (R18, R26). -/
def psuIi (u : Byte) : Bool := u.getLsbD 5

/-- PSU with a new interrupt-inhibit bit (R26). -/
def withIi (u : Byte) (b : Bool) : Byte := setBit u 5 b

/-- PSU.S, bit 7: the sense bit (R18, R24). -/
def psuSense (u : Byte) : Bool := u.getLsbD 7

/-- PSU with a new sense bit (R24). -/
def withSense (u : Byte) (b : Bool) : Byte := setBit u 7 b

/-- PSU.F, bit 6: the level of the flag output (R18, R25, R202). -/
def psuFlag (u : Byte) : Bool := u.getLsbD 6

/-- The implemented bits of PSU; bits 4:3 read 0 and ignore writes (R18, R161). -/
def psuMask : Byte := 0xE7

/-! ### Condition code -/

/-- `cc(v)`: 00 zero, 01 plus, 10 minus (R19). -/
def cc8 (v : Byte) : BitVec 2 :=
  if v = 0 then 0 else if v.getLsbD 7 then 2 else 1

/-- The 512-entry condition-code table in closed form: CC from bits 7:0 of the index, OVF from bit 8 (R20). -/
def ccTable (idx : BitVec 9) : Byte :=
  ((cc8 (idx.extractLsb' 0 8)).setWidth 8 <<< 6) ||| ((BitVec.ofBool (idx.getLsbD 8)).setWidth 8 <<< 2)

/-- `cond(v)`: the selector equals the condition code, or is "always" (R165). -/
def condTrue (v : Cond) (cc : BitVec 2) : Bool :=
  match v with
  | .zero => cc == 0
  | .plus => cc == 1
  | .minus => cc == 2
  | .always => true

/-- The condition-false test: the selector differs from the condition code (R169). The selector "always" has no
condition-false encoding (R71); its value 3 is compared like the others. -/
def condFalse (v : Cond) (cc : BitVec 2) : Bool :=
  match v with
  | .zero => cc != 0
  | .plus => cc != 1
  | .minus => cc != 2
  | .always => cc != 3

/-- Result of a test under mask: 00 if every selected bit is 1, else 10 (R158, R159, R160). -/
def testCc (v mask : Byte) : BitVec 2 :=
  if v &&& mask = mask then 0 else 2

/-! ### Arithmetic -/

/-- A byte result with the status byte that goes with it. -/
structure Alu where
  value : Byte
  psl : Byte
  deriving DecidableEq, Repr

/-- PSL after an add or a subtract: C, IDC, OVF and CC are written, WC, COM and RS are not (R125, R130). -/
def arithPsl (p : Byte) (c idc ovf : Bool) (result : Byte) : Byte :=
  withCc (setBit (setBit (setBit p 0 c) 5 idc) 2 ovf) (cc8 result)

/-- The low digit of a byte. -/
def lowNibble (v : Byte) : BitVec 4 := v.extractLsb' 0 4

/-- The carry into an add: 1 when WC = 1 and C = 1 (R125). -/
def carryIn (p : Byte) : Bool := pslWc p && pslC p

/-- The borrow into a subtract: 1 when WC = 1 and C = 0 (R130). -/
def borrowIn (p : Byte) : Bool := pslWc p && !pslC p

/-- A single bit as a byte. -/
def bitByte (b : Bool) : Byte := if b then 1 else 0

/-- `add8(before, src)` under the status byte p (R125). C and IDC are the source's comparisons of the result with the old
value; OVF is the difference of their top bits. -/
def add8 (p before src : Byte) : Alu :=
  let result := before + src + bitByte (carryIn p)
  { value := result
    psl := arithPsl p (result.ult before) ((lowNibble result).ult (lowNibble before))
      (result.getLsbD 7 ^^ before.getLsbD 7) result }

/-- `sub8(before, src)` under the status byte p (R130). -/
def sub8 (p before src : Byte) : Alu :=
  let result := before - src - bitByte (borrowIn p)
  { value := result
    psl := arithPsl p (result.ule before) ((lowNibble result).ule (lowNibble before))
      (result.getLsbD 7 ^^ before.getLsbD 7) result }

/-- The condition code of an exact difference (R135). -/
def orderCc (d : Int) : BitVec 2 :=
  if d = 0 then 0 else if 0 < d then 1 else 2

/-- `com8(a, b)`: the condition code of a against b, unsigned when COM = 1, signed when COM = 0 (R135). -/
def com8 (p a b : Byte) : BitVec 2 :=
  if pslCom p then orderCc ((a.toNat : Int) - (b.toNat : Int)) else orderCc (a.toInt - b.toInt)

/-- The constant that DAR subtracts, by C and IDC (R141). -/
def darConstant (t : DarTable) (c idc : Bool) : Byte :=
  match c, idc with
  | false, false => t.k00
  | false, true => t.k01
  | true, false => t.k10
  | true, true => t.k11

/-- PSL after a rotate: CC always; C and IDC receive the bit shifted out when WC = 1 (R145). -/
def rotatePsl (p : Byte) (out : Bool) (result : Byte) : Byte :=
  if pslWc p then withCc (setBit (setBit p 0 out) 5 out) (cc8 result) else withCc p (cc8 result)

/-- RRL: rotate left by one, circular when WC = 0, through C when WC = 1 (R146). -/
def rotateLeft (p b : Byte) : Alu :=
  let enters := if pslWc p then pslC p else b.getLsbD 7
  let result := (b <<< 1) ||| bitByte enters
  { value := result, psl := rotatePsl p (b.getLsbD 7) result }

/-- RRR: rotate right by one, circular when WC = 0, through C when WC = 1 (R147). -/
def rotateRight (p b : Byte) : Alu :=
  let enters := if pslWc p then pslC p else b.getLsbD 0
  let result := (b >>> 1) ||| (bitByte enters <<< 7)
  { value := result, psl := rotatePsl p (b.getLsbD 0) result }

end Sys2Proof.Machine
end

