-- ==== Sys2Proof/Machine/Memory.lean ====
section
/-!
DEFINITION. The memory space (spec/20_memory.md R29, R43): 32768 bytes as a list of (address, byte) pairs in one
canonical form. One flat memory serves the three kinds of reads (R41; log 3).
-/

namespace Sys2Proof.Machine

/-- Memory: pairs with strictly rising addresses below 32768, none equal to what an unlisted address reads as. -/
abbrev Memory := List Host.Cell

/-- What an address that is not listed reads as. DESIGN CHOICE 0x00, unsafe (log 4): the core fixes no contents (R44);
the convention of spec/95_test_vectors.md is that unlisted bytes are 0x00. -/
def Memory.unlisted : Byte := 0x00

/-- One past the highest address (R43). -/
def Memory.size : Nat := 32768

/-- The byte at an address. -/
def Memory.read (m : Memory) (a : Nat) : Byte :=
  match m with
  | [] => Memory.unlisted
  | (b, w) :: rest => if b = a then w else Memory.read rest a

/-- Store a byte at an address, keeping the canonical form (R42). -/
def Memory.write (m : Memory) (a : Nat) (v : Byte) : Memory :=
  match m with
  | [] => if v = Memory.unlisted then [] else [(a, v)]
  | (b, w) :: rest =>
    if a < b then
      (if v = Memory.unlisted then (b, w) :: rest else (a, v) :: (b, w) :: rest)
    else if a = b then
      (if v = Memory.unlisted then rest else (a, v) :: rest)
    else (b, w) :: Memory.write rest a v

/-- The canonical form above a lower bound: strictly rising addresses from lo on, all inside the address space, no entry
equal to what an unlisted address reads as. -/
def Memory.wfFrom (lo : Nat) : Memory → Bool
  | [] => true
  | (b, w) :: rest =>
    decide (lo ≤ b) && decide (b < Memory.size) && (w != Memory.unlisted) && Memory.wfFrom (b + 1) rest

/-- The canonical form of the memory. -/
def Memory.wf (m : Memory) : Bool :=
  Memory.wfFrom 0 m

end Sys2Proof.Machine
end

