-- ==== Sys2Proof/Machine/State.lean ====
section
/-!
DEFINITION. The state of the machine as plain data (spec/10_state.md R10 to R37), the reasons a step can stop, and the
state after reset (R37, R240).
-/

namespace Sys2Proof.Machine

/-- One bank of registers 1 to 3 (R10, R11). -/
structure Bank where
  r1 : Byte
  r2 : Byte
  r3 : Byte
  deriving DecidableEq, Repr

/-- A port of the I/O space (R45, R201): the two fixed ports, which alias no extended port, and the 256 extended
ports. -/
inductive Port where
  | control
  | data
  | extended (n : Byte)
  deriving DecidableEq, Repr

/-- A bus transaction of the core (R40 to R42, R45, R216). -/
inductive Transaction where
  | fetchOp (a : Addr)
  | fetchArg (a : Addr)
  | dataRead (a : Addr)
  | memWrite (a : Addr) (v : Byte)
  | portRead (p : Port)
  | portWrite (p : Port) (v : Byte)
  | intAck
  deriving DecidableEq, Repr

/-- An event of the environment (R8). -/
inductive Event where
  /-- the reset event (R240, R243) -/
  | reset
  /-- the interrupt-request input changes level (R212) -/
  | irqChange (level : Bool)
  /-- the sense input changes level (R24) -/
  | senseChange (level : Bool)
  deriving DecidableEq, Repr

/-- The state. The fields up to `ppc` are the core's (R10 to R35), `mem` is the memory space (R43); the rest are the
model's own: the open parameters (R5) and the environment's side of the core's interfaces (R8, R40). -/
structure State where
  /-- general register 0 (R10) -/
  r0 : Byte
  /-- B[0][1..3] (R11) -/
  bank0 : Bank
  /-- B[1][1..3] (R11) -/
  bank1 : Bank
  /-- program status lower (R17) -/
  psl : Byte
  /-- program status upper (R18) -/
  psu : Byte
  /-- bits 14:13 of the program counter (R15) -/
  page : BitVec 2
  /-- bits 12:0 of the program counter (R15) -/
  offset : BitVec 13
  /-- return-address stack (R27) -/
  ras : Vector Addr 8
  /-- run state (R30) -/
  halted : Bool
  /-- level of the interrupt-request input (R31) -/
  irq : Bool
  /-- instruction register, scratch (R32) -/
  ir : Byte
  /-- effective address, scratch (R33) -/
  ea : Addr
  /-- register select, scratch (R34) -/
  rsel : BitVec 2
  /-- address of the current instruction, debug only (R35) -/
  ppc : Addr
  /-- the memory space (R43) -/
  mem : Memory
  /-- the open parameters (R5); no step changes them -/
  params : Params
  /-- the environment events to come: the head arrives before the next step, the next list before the step after it,
  and so on; none after the last (log 5) -/
  events : List (List Event)
  /-- the vector bytes that answer the coming acknowledges (R216; log 7) -/
  vectors : List Byte
  /-- the bytes that answer the coming port reads (R45; log 7) -/
  portIn : List Byte
  /-- how many bytes the environment has answered, the counter of the free value (log 7) -/
  inputs : Nat
  /-- the bus transactions made so far, newest first (R55; log 8) -/
  bus : List Transaction
  deriving DecidableEq, Repr

/-- Why the machine stops with a fault: never. The core has no fault of any kind (R49, R210), so there is no constructor;
nothing raises one and that is safe. -/
inductive Fault
  deriving DecidableEq, Repr

/-- Why the model refuses an instruction. -/
inductive Refusal where
  /-- raised by an arm of exec whose instruction has no meaning yet; there is none, so it is never raised (safe) -/
  | notModelled (mnemonic : String)
  deriving DecidableEq, Repr

/-- A step's outcome on this machine. -/
abbrev Result := Host.Outcome State Fault Refusal

/-- The state after reset (R37, R240): everything zero but the presets PSL = 0x0A and PSU = 0x80. Memory lists nothing,
the parameters have the document's values, and the environment has sent and answered nothing (log 1, 2, 4, 5, 7, 8). -/
def State.reset : State where
  r0 := 0x00
  bank0 := ⟨0x00, 0x00, 0x00⟩
  bank1 := ⟨0x00, 0x00, 0x00⟩
  psl := 0x0A
  psu := 0x80
  page := 0
  offset := 0
  ras := Vector.replicate 8 0x0000
  halted := false
  irq := false
  ir := 0x00
  ea := 0x0000
  rsel := 0
  ppc := 0x0000
  mem := []
  params := Config.documentParams
  events := []
  vectors := []
  portIn := []
  inputs := 0
  bus := []

end Sys2Proof.Machine
end

