-- ==== Sys2Proof/Machine/Ops.lean ====
section
/-!
DEFINITION. The named operations over registers, status, the return stack, memory, ports and the program counter; the
fetch of an instruction; taking the interrupt and returning from it (spec/10_state.md, 20_memory.md, 60_exceptions.md).
-/

namespace Sys2Proof.Machine

/-! ### General registers: always through the active bank (R12) -/

/-- The bank that registers 1 to 3 name now (R11). -/
def State.activeBank (s : State) : Bank :=
  if pslRs s.psl then s.bank1 else s.bank0

/-- The bank that no instruction reaches now (R12). -/
def State.inactiveBank (s : State) : Bank :=
  if pslRs s.psl then s.bank0 else s.bank1

/-- The state with another content of the active bank. -/
def State.setActiveBank (s : State) (b : Bank) : State :=
  if pslRs s.psl then { s with bank1 := b } else { s with bank0 := b }

/-- `x[r]` (R12). -/
def State.reg (s : State) (r : Reg) : Byte :=
  match r with
  | .r0 => s.r0
  | .r1 => s.activeBank.r1
  | .r2 => s.activeBank.r2
  | .r3 => s.activeBank.r3

/-- `x[r] <- v` (R12). -/
def State.setReg (s : State) (r : Reg) (v : Byte) : State :=
  match r with
  | .r0 => { s with r0 := v }
  | .r1 => s.setActiveBank { s.activeBank with r1 := v }
  | .r2 => s.setActiveBank { s.activeBank with r2 := v }
  | .r3 => s.setActiveBank { s.activeBank with r3 := v }

/-! ### Status registers -/

/-- PSL.CC (R19). -/
def State.cc (s : State) : BitVec 2 := pslCc s.psl

/-- `PSL.CC <- c` (R20 `set_cc`). -/
def State.setCc (s : State) (c : BitVec 2) : State := { s with psl := withCc s.psl c }

/-- `PSL <- v`; in the physical view of the banks no register moves (R17, R162). -/
def State.setPsl (s : State) (v : Byte) : State := { s with psl := v }

/-- Write a result and the status byte that goes with it (R125, R130, R145). RS is written by none of these, so the
register is reached through the same bank before and after. -/
def State.writeAlu (s : State) (d : Reg) (a : Alu) : State := (s.setReg d a.value).setPsl a.psl

/-- PSU as an instruction reads it: bits 4:3 read 0 (R18, R161). -/
def State.psuRead (s : State) : Byte := s.psu &&& psuMask

/-- `psu_write(v)` (R161). -/
def State.psuWrite (s : State) (v : Byte) : State := { s with psu := v &&& psuMask }

/-- PSU.II (R26). -/
def State.inhibited (s : State) : Bool := psuIi s.psu

/-- `PSU.II <- b` (R26). -/
def State.setIi (s : State) (b : Bool) : State := { s with psu := withIi s.psu b }

/-- PSU.SP (R27). -/
def State.sp (s : State) : BitVec 3 := psuSp s.psu

/-- The level of the flag output (R25, R202). -/
def State.flagOutput (s : State) : Bool := psuFlag s.psu

/-! ### Program counter -/

/-- `pc = page + offset` (R15). -/
def State.pc (s : State) : Addr := mkAddr s.page s.offset

/-- `pc <- a`: both parts are replaced (R7, R166). -/
def State.setPc (s : State) (a : Addr) : State := { s with page := pageOf a, offset := offsetOf a }

/-- Move the offset, wrapping in the page (R16). -/
def State.advance (s : State) (n : BitVec 13) : State := { s with offset := s.offset + n }

/-- The control transfer to the effective address (R166). -/
def State.jump (s : State) : State := s.setPc s.ea

/-! ### Bus transactions -/

/-- Record a transaction (R55). -/
def State.record (s : State) (t : Transaction) : State := { s with bus := t :: s.bus }

/-- The byte in memory at an address, with no transaction. -/
def State.peek (s : State) (a : Addr) : Byte := s.mem.read a.toNat

/-- `DataRead(a)`: the transaction; its byte is `s.peek a` (R41). -/
def State.dataRead (s : State) (a : Addr) : State := s.record (.dataRead a)

/-- `MemWrite(a, 1, v)` (R42). -/
def State.memWrite (s : State) (a : Addr) (v : Byte) : State :=
  { s with mem := s.mem.write a.toNat v }.record (.memWrite a v)

/-- `NextArg()`: the fetch of the next argument byte, which the decoder has handed over with the instruction (R62;
log 10). -/
def State.nextArg (s : State) : State := (s.record (.fetchArg s.pc)).advance 1

/-- The number of a port in the source's numbering: PORT_CTRL = 0x100, PORT_DATA = 0x101, an extended port its port byte
(R45, R201; log 9). -/
def Port.number : Port → Nat
  | .control => 0x100
  | .data => 0x101
  | .extended n => n.toNat

/-- The byte the environment answers from a list of coming answers: the head, or the free value when the list gives
none (U15, U20; log 7). -/
def answer (coming : List Byte) (n : Nat) : Byte :=
  match coming with
  | [] => Config.freeBusByte n
  | b :: _ => b

/-- The byte that the next port read answers (R45). -/
def State.portByte (s : State) : Byte := answer s.portIn s.inputs

/-- `PortRead(p)`: the transaction; its byte is `s.portByte` (R45). -/
def State.portRead (s : State) (p : Port) : State :=
  { s with portIn := s.portIn.tail, inputs := s.inputs + 1 }.record (.portRead p)

/-- `PortWrite(p, v)` (R45). -/
def State.portWrite (s : State) (p : Port) (v : Byte) : State := s.record (.portWrite p v)

/-- The vector byte that the next acknowledge answers (R216). -/
def State.vectorByte (s : State) : Byte := answer s.vectors s.inputs

/-- `IntAck()`: the transaction; its byte is `s.vectorByte` (R216). -/
def State.intAck (s : State) : State :=
  { s with vectors := s.vectors.tail, inputs := s.inputs + 1 }.record .intAck

/-! ### Effective address and indirection -/

/-- `EA <- a` (R33). -/
def State.setEa (s : State) (a : Addr) : State := { s with ea := a }

/-- The pointer that lies in memory at an address, its second byte in the same page (R84). -/
def State.pointerAt (s : State) (a : Addr) : Addr :=
  pointerValue (s.peek a) (s.peek (nextInPage a))

/-- `EA <- indirect(EA)`: two reads, high byte first, one level only (R84). -/
def State.indirect (s : State) : State :=
  ((s.dataRead s.ea).dataRead (nextInPage s.ea)).setEa (s.pointerAt s.ea)

/-- `EA <- a`, then the indirection if the indirect bit is 1 (R82, R83, R86, R89). -/
def State.resolve (s : State) (a : Addr) (ind : Bool) : State :=
  if ind then (s.setEa a).indirect else s.setEa a

/-! ### Return-address stack (R28) -/

/-- `push(a)`: store, then increment SP modulo 8. -/
def State.push (s : State) (a : Addr) : State :=
  { s with ras := s.ras.set s.sp.toNat a s.sp.isLt, psu := withSp s.psu (s.sp + 1) }

/-- The entry that the next pop returns: RAS[SP - 1]. -/
def State.stackTop (s : State) : Addr :=
  s.ras[(s.sp - 1).toNat]'((s.sp - 1).isLt)

/-- `page, offset <- pop()`: decrement SP modulo 8 and jump to the entry (R28, R187). -/
def State.popJump (s : State) : State :=
  { s with psu := withSp s.psu (s.sp - 1) }.setPc s.stackTop

/-! ### Instruction fetch (R61 steps 1 to 5) -/

/-- The instruction in memory at the program counter, its argument bytes wrapping in the page (R61, R62, R74). -/
def State.fetched (s : State) : Instr :=
  decodeBytes (s.peek s.pc) (s.peek (nextInPage s.pc)) (s.peek (nextInPage (nextInPage s.pc)))

/-- The state in which the instruction's rule is performed: PPC, IR and rsel are written, the opcode has been fetched and
the offset advanced (R61). -/
def State.afterOpcode (s : State) : State :=
  { s with ppc := s.pc, ir := s.peek s.pc, rsel := (s.peek s.pc).extractLsb' 0 2, offset := s.offset + 1 }.record
    (.fetchOp s.pc)

/-- Three bytes stored where the next instruction is fetched. -/
def State.placeBytes (s : State) (b0 b1 b2 : Byte) : State :=
  { s with
    mem := ((s.mem.write s.pc.toNat b0).write (nextInPage s.pc).toNat b1).write (nextInPage (nextInPage s.pc)).toNat b2 }

/-- Running, with no request asserted and no event for the next boundary: what a fetch at the program counter needs
(R9; log 21). -/
def State.quiet (s : State) : State :=
  { s with
    halted := false
    irq := false
    events :=
      match s.events with
      | [] => []
      | _ :: later => [] :: later }

/-! ### The interrupt (60_exceptions.md) -/

/-- The acceptance test: the request is asserted and not inhibited (R214). -/
def State.interruptTaken (s : State) : Bool := s.irq && !s.inhibited

/-- Leave the halted state: the program counter moves past the HALT (R215, R223). -/
def State.unhalt (s : State) : State :=
  if s.halted then { s with halted := false }.advance 1 else s

/-- Taking the interrupt (R215 to R218): un-halt, acknowledge, form the vector's address from base 0 of page 0, push the
return address, inhibit interrupts, jump. Nothing else is saved. -/
def State.takeInterrupt (s : State) : State :=
  let u := s.unhalt
  let t := u.intAck.resolve (zeroTarget (u.vectorByte.extractLsb' 0 7)) (u.vectorByte.getLsbD 7)
  ((t.push t.pc).setIi true).jump

/-- The return from interrupt: pop the return address and enable interrupts; nothing else is restored (R188, R220). -/
def State.returnFromInterrupt (s : State) : State := s.popJump.setIi false

/-! ### Environment events (R8) -/

/-- The core at its reset values; memory, ports, the parameters and the environment's side are not touched (R240;
log 6). -/
def State.resetCore (s : State) : State :=
  { State.reset with
    mem := s.mem
    params := s.params
    events := s.events
    vectors := s.vectors
    portIn := s.portIn
    inputs := s.inputs
    bus := s.bus }

/-- One event, applied at a boundary (R240, R212, R24). -/
def State.applyEvent (s : State) (e : Event) : State :=
  match e with
  | .reset => s.resetCore
  | .irqChange level => { s with irq := level }
  | .senseChange level => { s with psu := withSense s.psu level }

/-- The events that have arrived for the next boundary, in arrival order. -/
def State.arrived (s : State) : List Event := s.events.headD []

/-- The boundary: the arrived events are applied in order and are gone (R8, R222). -/
def State.boundary (s : State) : State :=
  s.arrived.foldl State.applyEvent { s with events := s.events.tail }

/-- A Reset is among the arrived events (R9, R243). -/
def State.resetArrived (s : State) : Bool := s.arrived.contains .reset

end Sys2Proof.Machine
end

