-- ==== Sys2Proof/Machine/Operands.lean ====
section
/-!
DEFINITION. The effective-address calculator and every operand form (spec/40_addressing.md R80 to R90, 30_encoding.md
R69). Each calculator leaves the address in `ea`.
-/

namespace Sys2Proof.Machine

/-- `rel_ea()` (R82): the base is the offset after the argument byte. -/
def State.relEa (s : State) (a : RelArg) : State :=
  s.nextArg.resolve (relTarget s.nextArg.page s.nextArg.offset a.disp) a.ind

/-- `zero_ea()` (R83). -/
def State.zeroEa (s : State) (a : RelArg) : State :=
  s.nextArg.resolve (zeroTarget a.disp) a.ind

/-- `bra_ea()` (R89). -/
def State.braEa (s : State) (a : BraArg) : State :=
  s.nextArg.nextArg.resolve a.addr a.ind

/-- `bra_ea()` and then the index of BXA and BSXA: register 3 over 15 bits, after the indirection (R90). -/
def State.braIndexedEa (s : State) (a : BraArg) : State :=
  let t := s.braEa a
  t.setEa (fullAdd t.ea (t.reg .r3))

/-- `abs_ea()`, steps 1 and 2: the 13-bit address in the current page, then the indirection (R85, R86). -/
def State.absBase (s : State) (a : AbsArg) : State :=
  s.nextArg.nextArg.resolve (mkAddr s.page a.addr) a.ind

/-- `EA <- wrapadd(EA, x[r])`: the index is the unsigned register content and wraps in the page of EA (R88). -/
def State.addIndex (s : State) (r : Reg) : State :=
  s.setEa (wrapAdd s.ea ((s.reg r).setWidth 13))

/-- The step of an auto-indexed form, before or after the index is used (R88; the order is the open parameter of R5,
log 1). -/
def State.autoIndex (s : State) (r : Reg) (step : Byte) : State :=
  match s.params.autoIndex with
  | .post => (s.addIndex r).setReg r ((s.addIndex r).reg r + step)
  | .pre => (s.setReg r (s.reg r + step)).addIndex r

/-- `rsel <- 0` (R34, R87). -/
def State.clearRsel (s : State) : State := { s with rsel := 0 }

/-- `abs_ea()` (R85 to R88): address, indirection, index. -/
def State.absEa (s : State) (r : Reg) (a : AbsArg) : State :=
  let t := s.absBase a
  match a.idx with
  | .none => t
  | .indexed => (t.addIndex r).clearRsel
  | .autoInc => (t.autoIndex r 1).clearRsel
  | .autoDec => (t.autoIndex r (-1)).clearRsel

/-- The register operand of a format-A instruction: x[r], or R0 when it is indexed (R87). -/
def dataReg (r : Reg) (a : AbsArg) : Reg :=
  match a.idx with
  | .none => r
  | .indexed => .r0
  | .autoInc => .r0
  | .autoDec => .r0

/-- An operand that an instruction has obtained: its value, and the state after obtaining it. -/
structure Operand where
  value : Byte
  state : State
  deriving DecidableEq, Repr

/-- Format Z: a register (R69). -/
def State.regOperand (s : State) (r : Reg) : Operand := ⟨s.reg r, s⟩

/-- Format I: the literal, as it is (R65, R69). -/
def State.immOperand (s : State) (imm : Byte) : Operand := ⟨imm, s.nextArg⟩

/-- The byte at EA, read once (R41, R55). -/
def State.eaOperand (s : State) : Operand := ⟨s.peek s.ea, s.dataRead s.ea⟩

/-- Format R: the byte at the relative address (R69, R82). -/
def State.relOperand (s : State) (a : RelArg) : Operand := (s.relEa a).eaOperand

/-- Format A: the byte at the absolute address (R69, R85 to R88). -/
def State.absOperand (s : State) (r : Reg) (a : AbsArg) : Operand := (s.absEa r a).eaOperand

end Sys2Proof.Machine
end

