-- ==== Sys2Proof/Machine/Arithmetic.lean ====
section
/-!
DEFINITION. Add, subtract, compare, decimal adjust (spec/43_arithmetic.md R125 to R141).
-/

namespace Sys2Proof.Machine

/-- `x[d] <- add8(x[d], v)` (R125). -/
def Operand.addInto (o : Operand) (d : Reg) : State :=
  o.state.writeAlu d (add8 o.state.psl (o.state.reg d) o.value)

/-- `x[d] <- sub8(x[d], v)` (R130). -/
def Operand.subFrom (o : Operand) (d : Reg) : State :=
  o.state.writeAlu d (sub8 o.state.psl (o.state.reg d) o.value)

/-- `com8(x[d], v)`: only CC is written (R135). -/
def Operand.compareWith (o : Operand) (d : Reg) : State :=
  o.state.setCc (com8 o.state.psl (o.state.reg d) o.value)

/-- ADDZ (R126). -/
def execAddz (r : Reg) (s : State) : Result := .next ((s.regOperand r).addInto .r0)

/-- ADDI (R127). -/
def execAddi (r : Reg) (imm : Byte) (s : State) : Result := .next ((s.immOperand imm).addInto r)

/-- ADDR (R128). -/
def execAddr (r : Reg) (a : RelArg) (s : State) : Result := .next ((s.relOperand a).addInto r)

/-- ADDA (R129). -/
def execAdda (r : Reg) (a : AbsArg) (s : State) : Result := .next ((s.absOperand r a).addInto (dataReg r a))

/-- SUBZ (R131). -/
def execSubz (r : Reg) (s : State) : Result := .next ((s.regOperand r).subFrom .r0)

/-- SUBI (R132). -/
def execSubi (r : Reg) (imm : Byte) (s : State) : Result := .next ((s.immOperand imm).subFrom r)

/-- SUBR (R133). -/
def execSubr (r : Reg) (a : RelArg) (s : State) : Result := .next ((s.relOperand a).subFrom r)

/-- SUBA (R134). -/
def execSuba (r : Reg) (a : AbsArg) (s : State) : Result := .next ((s.absOperand r a).subFrom (dataReg r a))

/-- COMZ (R136). -/
def execComz (r : Reg) (s : State) : Result := .next ((s.regOperand r).compareWith .r0)

/-- COMI (R137). -/
def execComi (r : Reg) (imm : Byte) (s : State) : Result := .next ((s.immOperand imm).compareWith r)

/-- COMR (R138). -/
def execComr (r : Reg) (a : RelArg) (s : State) : Result := .next ((s.relOperand a).compareWith r)

/-- COMA (R139). -/
def execComa (r : Reg) (a : AbsArg) (s : State) : Result := .next ((s.absOperand r a).compareWith (dataReg r a))

/-- DAR (R141): subtract the constant that C and IDC select; no flag is written. The table is the open parameter of R5
(log 2). -/
def execDar (r : Reg) (s : State) : Result :=
  .next (s.setReg r (s.reg r - darConstant s.params.darAdj (pslC s.psl) (pslIdc s.psl)))

end Sys2Proof.Machine
end

