-- ==== Sys2Proof/Machine/Branch.lean ====
section
/-!
DEFINITION. Branches, subroutine calls and returns (spec/46_branch.md R165 to R190). The test is made before any argument
byte is fetched; a transfer not taken steps over the argument bytes with no transaction (R166).
-/

namespace Sys2Proof.Machine

/-! ### The common shape (R166) -/

/-- Push the address of the next sequential instruction and go to EA (R166). -/
def State.callEa (s : State) : State := (s.push s.pc).jump

/-- A format-R branch: taken, or one byte skipped. -/
def State.branchRel (s : State) (taken : Bool) (a : RelArg) : State :=
  if taken then (s.relEa a).jump else s.advance 1

/-- A format-B branch: taken, or two bytes skipped. -/
def State.branchAbs (s : State) (taken : Bool) (a : BraArg) : State :=
  if taken then (s.braEa a).jump else s.advance 2

/-- A format-R call. -/
def State.callRel (s : State) (taken : Bool) (a : RelArg) : State :=
  if taken then (s.relEa a).callEa else s.advance 1

/-- A format-B call. -/
def State.callAbs (s : State) (taken : Bool) (a : BraArg) : State :=
  if taken then (s.braEa a).callEa else s.advance 2

/-- A register is not zero (R173, R190). -/
def State.nonzero (s : State) (r : Reg) : Bool := s.reg r != 0

/-- A register stepped modulo 256, before the test of BIRx and BDRx; no flag is written (R140, R175). -/
def State.stepReg (s : State) (r : Reg) (by_ : Byte) : State := s.setReg r (s.reg r + by_)

/-! ### Branches -/

/-- BCTR (R167). -/
def execBctr (v : Cond) (a : RelArg) (s : State) : Result := .next (s.branchRel (condTrue v s.cc) a)

/-- BCTA (R168). -/
def execBcta (v : Cond) (a : BraArg) (s : State) : Result := .next (s.branchAbs (condTrue v s.cc) a)

/-- BCFR (R169). -/
def execBcfr (v : Cond) (a : RelArg) (s : State) : Result := .next (s.branchRel (condFalse v s.cc) a)

/-- BCFA (R170). -/
def execBcfa (v : Cond) (a : BraArg) (s : State) : Result := .next (s.branchAbs (condFalse v s.cc) a)

/-- ZBRR (R171). -/
def execZbrr (a : RelArg) (s : State) : Result := .next (s.zeroEa a).jump

/-- BXA (R172). -/
def execBxa (a : BraArg) (s : State) : Result := .next (s.braIndexedEa a).jump

/-- BRNR (R173): the register as it stands. -/
def execBrnr (r : Reg) (a : RelArg) (s : State) : Result := .next (s.branchRel (s.nonzero r) a)

/-- BRNA (R174). -/
def execBrna (r : Reg) (a : BraArg) (s : State) : Result := .next (s.branchAbs (s.nonzero r) a)

/-- BIRR (R175): the register after the increment. -/
def execBirr (r : Reg) (a : RelArg) (s : State) : Result :=
  let t := s.stepReg r 1
  .next (t.branchRel (t.nonzero r) a)

/-- BIRA (R176). -/
def execBira (r : Reg) (a : BraArg) (s : State) : Result :=
  let t := s.stepReg r 1
  .next (t.branchAbs (t.nonzero r) a)

/-- BDRR (R177): the register after the decrement. -/
def execBdrr (r : Reg) (a : RelArg) (s : State) : Result :=
  let t := s.stepReg r (-1)
  .next (t.branchRel (t.nonzero r) a)

/-- BDRA (R178). -/
def execBdra (r : Reg) (a : BraArg) (s : State) : Result :=
  let t := s.stepReg r (-1)
  .next (t.branchAbs (t.nonzero r) a)

/-! ### Subroutine calls -/

/-- BSTR (R179). -/
def execBstr (v : Cond) (a : RelArg) (s : State) : Result := .next (s.callRel (condTrue v s.cc) a)

/-- BSTA (R180). -/
def execBsta (v : Cond) (a : BraArg) (s : State) : Result := .next (s.callAbs (condTrue v s.cc) a)

/-- BSFR (R181). -/
def execBsfr (v : Cond) (a : RelArg) (s : State) : Result := .next (s.callRel (condFalse v s.cc) a)

/-- BSFA (R182). -/
def execBsfa (v : Cond) (a : BraArg) (s : State) : Result := .next (s.callAbs (condFalse v s.cc) a)

/-- ZBSR (R183). -/
def execZbsr (a : RelArg) (s : State) : Result := .next (s.zeroEa a).callEa

/-- BSXA (R184). -/
def execBsxa (a : BraArg) (s : State) : Result := .next (s.braIndexedEa a).callEa

/-- BSNR (R185). -/
def execBsnr (r : Reg) (a : RelArg) (s : State) : Result := .next (s.callRel (s.nonzero r) a)

/-- BSNA (R186). -/
def execBsna (r : Reg) (a : BraArg) (s : State) : Result := .next (s.callAbs (s.nonzero r) a)

/-! ### Returns -/

/-- RETC (R187): not taken, it does nothing further. -/
def execRetc (v : Cond) (s : State) : Result := .next (if condTrue v s.cc then s.popJump else s)

/-- RETE (R188): the interrupt test that follows is the one of the next step (R214). -/
def execRete (v : Cond) (s : State) : Result := .next (if condTrue v s.cc then s.returnFromInterrupt else s)

end Sys2Proof.Machine
end

