-- ==== Sys2Proof/Machine/LoadStore.lean ====
section
/-!
DEFINITION. Load and store (spec/41_load_store.md R100 to R108).
-/

namespace Sys2Proof.Machine

/-- A byte moved into a register sets CC from it (R104, R105, R150, R195). -/
def Operand.load (o : Operand) (d : Reg) : State :=
  (o.state.setReg d o.value).setCc (cc8 o.value)

/-- The one byte stored at EA (R108). -/
def State.storeAtEa (s : State) (v : Byte) : State := s.memWrite s.ea v

/-- LODZ (R100). -/
def execLodz (r : Reg) (s : State) : Result := .next ((s.regOperand r).load .r0)

/-- LODI (R101). -/
def execLodi (r : Reg) (imm : Byte) (s : State) : Result := .next ((s.immOperand imm).load r)

/-- LODR (R102). -/
def execLodr (r : Reg) (a : RelArg) (s : State) : Result := .next ((s.relOperand a).load r)

/-- LODA (R103). -/
def execLoda (r : Reg) (a : AbsArg) (s : State) : Result := .next ((s.absOperand r a).load (dataReg r a))

/-- STRZ (R105). -/
def execStrz (r : Reg) (s : State) : Result := .next ((s.regOperand .r0).load r)

/-- STRR (R106). -/
def execStrr (r : Reg) (a : RelArg) (s : State) : Result :=
  let t := s.relEa a
  .next (t.storeAtEa (t.reg r))

/-- STRA (R107). -/
def execStra (r : Reg) (a : AbsArg) (s : State) : Result :=
  let t := s.absEa r a
  .next (t.storeAtEa (t.reg (dataReg r a)))

end Sys2Proof.Machine
end

