-- ==== Sys2Proof/Machine/InputOutput.lean ====
section
/-!
DEFINITION. Input and output, HALT, NOP and the illegal opcodes (spec/47_io_misc.md R195 to R205).
-/

namespace Sys2Proof.Machine

/-- The operand that a port read answers: one transfer (R201). -/
def State.portOperand (s : State) (p : Port) : Operand := ⟨s.portByte, s.portRead p⟩

/-- REDC (R195). -/
def execRedc (r : Reg) (s : State) : Result := .next ((s.portOperand .control).load r)

/-- REDD (R196). -/
def execRedd (r : Reg) (s : State) : Result := .next ((s.portOperand .data).load r)

/-- REDE (R197). -/
def execRede (r : Reg) (port : Byte) (s : State) : Result :=
  .next ((s.nextArg.portOperand (.extended port)).load r)

/-- WRTC (R198). -/
def execWrtc (r : Reg) (s : State) : Result := .next (s.portWrite .control (s.reg r))

/-- WRTD (R199). -/
def execWrtd (r : Reg) (s : State) : Result := .next (s.portWrite .data (s.reg r))

/-- WRTE (R200). -/
def execWrte (r : Reg) (port : Byte) (s : State) : Result :=
  .next (s.nextArg.portWrite (.extended port) (s.reg r))

/-- HALT (R203): halted, with the offset back on the HALT opcode. -/
def execHalt (s : State) : Result := .next ({ s with halted := true }.advance (-1))

/-- NOP (R204). -/
def execNop (s : State) : Result := .next s

/-- ILLEGAL (R205): a one-byte no-operation, whichever of the ten opcodes it is. -/
def execIllegal (_opcode : Byte) (s : State) : Result := .next s

end Sys2Proof.Machine
end

