-- ==== Sys2Proof/Machine/Logical.lean ====
section
/-!
DEFINITION. AND, exclusive OR, inclusive OR (spec/42_logical.md R110 to R122).
-/

namespace Sys2Proof.Machine

/-- Write the result of a bitwise operation to the destination and CC from it; no other flag (R122). -/
def Operand.logical (o : Operand) (d : Reg) (result : Byte) : State :=
  (o.state.setReg d result).setCc (cc8 result)

/-- `x[d] <- x[d] & v` (R110 to R113). -/
def Operand.andInto (o : Operand) (d : Reg) : State := o.logical d (o.state.reg d &&& o.value)

/-- `x[d] <- x[d] ^ v` (R114 to R117). -/
def Operand.eorInto (o : Operand) (d : Reg) : State := o.logical d (o.state.reg d ^^^ o.value)

/-- `x[d] <- x[d] | v` (R118 to R121). -/
def Operand.iorInto (o : Operand) (d : Reg) : State := o.logical d (o.state.reg d ||| o.value)

/-- ANDZ (R110). -/
def execAndz (r : Reg) (s : State) : Result := .next ((s.regOperand r).andInto .r0)

/-- ANDI (R111). -/
def execAndi (r : Reg) (imm : Byte) (s : State) : Result := .next ((s.immOperand imm).andInto r)

/-- ANDR (R112). -/
def execAndr (r : Reg) (a : RelArg) (s : State) : Result := .next ((s.relOperand a).andInto r)

/-- ANDA (R113). -/
def execAnda (r : Reg) (a : AbsArg) (s : State) : Result := .next ((s.absOperand r a).andInto (dataReg r a))

/-- EORZ (R114). -/
def execEorz (r : Reg) (s : State) : Result := .next ((s.regOperand r).eorInto .r0)

/-- EORI (R115). -/
def execEori (r : Reg) (imm : Byte) (s : State) : Result := .next ((s.immOperand imm).eorInto r)

/-- EORR (R116). -/
def execEorr (r : Reg) (a : RelArg) (s : State) : Result := .next ((s.relOperand a).eorInto r)

/-- EORA (R117). -/
def execEora (r : Reg) (a : AbsArg) (s : State) : Result := .next ((s.absOperand r a).eorInto (dataReg r a))

/-- IORZ (R118). -/
def execIorz (r : Reg) (s : State) : Result := .next ((s.regOperand r).iorInto .r0)

/-- IORI (R119). -/
def execIori (r : Reg) (imm : Byte) (s : State) : Result := .next ((s.immOperand imm).iorInto r)

/-- IORR (R120). -/
def execIorr (r : Reg) (a : RelArg) (s : State) : Result := .next ((s.relOperand a).iorInto r)

/-- IORA (R121). -/
def execIora (r : Reg) (a : AbsArg) (s : State) : Result := .next ((s.absOperand r a).iorInto (dataReg r a))

end Sys2Proof.Machine
end

