-- ==== Sys2Proof/Machine/Rotate.lean ====
section
/-!
DEFINITION. The rotates (spec/44_rotate.md R145 to R148).
-/

namespace Sys2Proof.Machine

/-- RRL (R146). -/
def execRrl (r : Reg) (s : State) : Result := .next (s.writeAlu r (rotateLeft s.psl (s.reg r)))

/-- RRR (R147). -/
def execRrr (r : Reg) (s : State) : Result := .next (s.writeAlu r (rotateRight s.psl (s.reg r)))

end Sys2Proof.Machine
end

