-- ==== Sys2Proof/Machine/Status.lean ====
section
/-!
DEFINITION. Status-register and test instructions (spec/45_status.md R150 to R163). None is privileged (R230).
-/

namespace Sys2Proof.Machine

/-- SPSU (R150): bits 4:3 read 0. -/
def execSpsu (s : State) : Result := .next (Operand.load ⟨s.psuRead, s⟩ .r0)

/-- SPSL (R151): R0 receives PSL as it was before CC is rewritten. -/
def execSpsl (s : State) : Result := .next (Operand.load ⟨s.psl, s⟩ .r0)

/-- LPSU (R152). -/
def execLpsu (s : State) : Result := .next (s.psuWrite (s.reg .r0))

/-- LPSL (R153): every bit is replaced; R0 is not banked. -/
def execLpsl (s : State) : Result := .next (s.setPsl (s.reg .r0))

/-- CPSU (R154): each 1 of the mask clears its bit. -/
def execCpsu (mask : Byte) (s : State) : Result := .next (s.nextArg.psuWrite (s.psuRead &&& ~~~mask))

/-- CPSL (R155). -/
def execCpsl (mask : Byte) (s : State) : Result := .next (s.nextArg.setPsl (s.psl &&& ~~~mask))

/-- PPSU (R156). -/
def execPpsu (mask : Byte) (s : State) : Result := .next (s.nextArg.psuWrite (s.psuRead ||| mask))

/-- PPSL (R157). -/
def execPpsl (mask : Byte) (s : State) : Result := .next (s.nextArg.setPsl (s.psl ||| mask))

/-- TPSU (R158). -/
def execTpsu (mask : Byte) (s : State) : Result := .next (s.nextArg.setCc (testCc s.psuRead mask))

/-- TPSL (R159): the test is made on PSL before CC is rewritten. -/
def execTpsl (mask : Byte) (s : State) : Result := .next (s.nextArg.setCc (testCc s.psl mask))

/-- TMI (R160). -/
def execTmi (r : Reg) (mask : Byte) (s : State) : Result := .next (s.nextArg.setCc (testCc (s.reg r) mask))

end Sys2Proof.Machine
end

