-- ==== Sys2Proof/Machine/Dispatch.lean ====
section
/-!
DEFINITION. The meaning of each instruction, one arm per constructor (spec/30_encoding.md R61 step 6). It starts in the
state after the opcode fetch.
-/

namespace Sys2Proof.Machine

def exec (i : Instr) (s : State) : Host.Outcome State Fault Refusal :=
  match i with
  | .lodz r => Sys2Proof.Machine.execLodz r s
  | .lodi r imm => Sys2Proof.Machine.execLodi r imm s
  | .lodr r a => Sys2Proof.Machine.execLodr r a s
  | .loda r a => Sys2Proof.Machine.execLoda r a s
  | .strz r => Sys2Proof.Machine.execStrz r s
  | .strr r a => Sys2Proof.Machine.execStrr r a s
  | .stra r a => Sys2Proof.Machine.execStra r a s
  | .andz r => Sys2Proof.Machine.execAndz r s
  | .andi r imm => Sys2Proof.Machine.execAndi r imm s
  | .andr r a => Sys2Proof.Machine.execAndr r a s
  | .anda r a => Sys2Proof.Machine.execAnda r a s
  | .eorz r => Sys2Proof.Machine.execEorz r s
  | .eori r imm => Sys2Proof.Machine.execEori r imm s
  | .eorr r a => Sys2Proof.Machine.execEorr r a s
  | .eora r a => Sys2Proof.Machine.execEora r a s
  | .iorz r => Sys2Proof.Machine.execIorz r s
  | .iori r imm => Sys2Proof.Machine.execIori r imm s
  | .iorr r a => Sys2Proof.Machine.execIorr r a s
  | .iora r a => Sys2Proof.Machine.execIora r a s
  | .addz r => Sys2Proof.Machine.execAddz r s
  | .addi r imm => Sys2Proof.Machine.execAddi r imm s
  | .addr r a => Sys2Proof.Machine.execAddr r a s
  | .adda r a => Sys2Proof.Machine.execAdda r a s
  | .subz r => Sys2Proof.Machine.execSubz r s
  | .subi r imm => Sys2Proof.Machine.execSubi r imm s
  | .subr r a => Sys2Proof.Machine.execSubr r a s
  | .suba r a => Sys2Proof.Machine.execSuba r a s
  | .comz r => Sys2Proof.Machine.execComz r s
  | .comi r imm => Sys2Proof.Machine.execComi r imm s
  | .comr r a => Sys2Proof.Machine.execComr r a s
  | .coma r a => Sys2Proof.Machine.execComa r a s
  | .dar r => Sys2Proof.Machine.execDar r s
  | .rrl r => Sys2Proof.Machine.execRrl r s
  | .rrr r => Sys2Proof.Machine.execRrr r s
  | .spsu => Sys2Proof.Machine.execSpsu s
  | .spsl => Sys2Proof.Machine.execSpsl s
  | .lpsu => Sys2Proof.Machine.execLpsu s
  | .lpsl => Sys2Proof.Machine.execLpsl s
  | .cpsu mask => Sys2Proof.Machine.execCpsu mask s
  | .cpsl mask => Sys2Proof.Machine.execCpsl mask s
  | .ppsu mask => Sys2Proof.Machine.execPpsu mask s
  | .ppsl mask => Sys2Proof.Machine.execPpsl mask s
  | .tpsu mask => Sys2Proof.Machine.execTpsu mask s
  | .tpsl mask => Sys2Proof.Machine.execTpsl mask s
  | .tmi r mask => Sys2Proof.Machine.execTmi r mask s
  | .bctr v a => Sys2Proof.Machine.execBctr v a s
  | .bcta v a => Sys2Proof.Machine.execBcta v a s
  | .bcfr v a => Sys2Proof.Machine.execBcfr v a s
  | .bcfa v a => Sys2Proof.Machine.execBcfa v a s
  | .zbrr a => Sys2Proof.Machine.execZbrr a s
  | .bxa a => Sys2Proof.Machine.execBxa a s
  | .brnr r a => Sys2Proof.Machine.execBrnr r a s
  | .brna r a => Sys2Proof.Machine.execBrna r a s
  | .birr r a => Sys2Proof.Machine.execBirr r a s
  | .bira r a => Sys2Proof.Machine.execBira r a s
  | .bdrr r a => Sys2Proof.Machine.execBdrr r a s
  | .bdra r a => Sys2Proof.Machine.execBdra r a s
  | .bstr v a => Sys2Proof.Machine.execBstr v a s
  | .bsta v a => Sys2Proof.Machine.execBsta v a s
  | .bsfr v a => Sys2Proof.Machine.execBsfr v a s
  | .bsfa v a => Sys2Proof.Machine.execBsfa v a s
  | .zbsr a => Sys2Proof.Machine.execZbsr a s
  | .bsxa a => Sys2Proof.Machine.execBsxa a s
  | .bsnr r a => Sys2Proof.Machine.execBsnr r a s
  | .bsna r a => Sys2Proof.Machine.execBsna r a s
  | .retc v => Sys2Proof.Machine.execRetc v s
  | .rete v => Sys2Proof.Machine.execRete v s
  | .redc r => Sys2Proof.Machine.execRedc r s
  | .redd r => Sys2Proof.Machine.execRedd r s
  | .rede r port => Sys2Proof.Machine.execRede r port s
  | .wrtc r => Sys2Proof.Machine.execWrtc r s
  | .wrtd r => Sys2Proof.Machine.execWrtd r s
  | .wrte r port => Sys2Proof.Machine.execWrte r port s
  | .halt => Sys2Proof.Machine.execHalt s
  | .nop => Sys2Proof.Machine.execNop s
  | .illegal opcode => Sys2Proof.Machine.execIllegal opcode s

end Sys2Proof.Machine
end

