-- ==== Sys2Proof/Machine/Step.lean ====
section
/-!
DEFINITION. One step of the machine (spec/00_scope.md R9).
-/

namespace Sys2Proof.Machine

/-- One step (R9): the events that have arrived are applied; then a reset ends the step, or the interrupt sequence runs,
or a halted core does nothing, or one instruction is fetched and executed. -/
def step (s : State) : Host.Outcome State Fault Refusal :=
  let b := s.boundary
  if s.resetArrived then .next b
  else if b.interruptTaken then .next b.takeInterrupt
  else if b.halted then .next b
  else exec b.fetched b.afterOpcode

/-- The state in which the very next step runs the instruction whose bits are w: its bytes stand at the program counter,
the core is not halted, no request is asserted and no event arrives before that step (log 18, log 21). -/
def State.withFetchWord (s : State) (nbits w : Nat) : State :=
  match wordBytes nbits w with
  | [b0, b1, b2] => s.quiet.placeBytes b0 b1 b2
  | _ => s.quiet

end Sys2Proof.Machine
end

