-- ==== Sys2Proof/Machine/Timing.lean ====
section
/-!
DEFINITION. The informative timing rules of spec/70_reset_and_hazards.md R252 to R254 and spec/40_addressing.md R91, as a
side function of a step: no rule of the machine reads it, and State holds no cycle counter (spec/00_scope.md R3; log 16).
-/

namespace Sys2Proof.Machine

/-- An opcode fetch (R41). -/
def Transaction.isFetchOp : Transaction → Bool
  | .fetchOp _ => true
  | .fetchArg _ => false
  | .dataRead _ => false
  | .memWrite _ _ => false
  | .portRead _ => false
  | .portWrite _ _ => false
  | .intAck => false

/-- A data read, of an operand or of a pointer byte (R41). -/
def Transaction.isDataRead : Transaction → Bool
  | .fetchOp _ => false
  | .fetchArg _ => false
  | .dataRead _ => true
  | .memWrite _ _ => false
  | .portRead _ => false
  | .portWrite _ _ => false
  | .intAck => false

/-- The transactions made between two states of one run, newest first. -/
def newTransactions (s t : State) : List Transaction :=
  t.bus.take (t.bus.length - s.bus.length)

/-- The cycles of a step from s to t under the open table CYCLES (R5, R252): the opcode's cost if an instruction was
fetched, and 2 for each indirection performed (R91, R224). A step reads at most one operand and at most one two-byte
pointer, so the number of indirections is half the number of its data reads. DESIGN CHOICE (log 16): a branch or call that
is not taken is charged nothing for a set indirect bit, since it performs no indirection (R91, R166); the words of R254 that
the indirect bit always adds 2 and that the cost does not depend on whether a branch is taken leave the case open. -/
def stepCost (cycles : Byte → Nat) (s t : State) : Nat :=
  (if (newTransactions s t).any Transaction.isFetchOp then cycles t.ir else 0) +
    2 * ((newTransactions s t).countP Transaction.isDataRead / 2)

/-- The default cost of an instruction without indirection (R253). -/
def instrCycles : Instr → Nat
  | .lodz _ | .strz _ | .andz _ | .eorz _ | .iorz _ | .addz _ | .subz _ | .comz _ => 2
  | .rrl _ | .rrr _ | .spsu | .spsl | .lpsu | .lpsl | .redc _ | .redd _ | .wrtc _ | .wrtd _ | .halt | .nop => 2
  | .lodi _ _ | .andi _ _ | .eori _ _ | .iori _ _ | .addi _ _ | .subi _ _ | .comi _ _ => 2
  | .lodr _ _ | .strr _ _ | .andr _ _ | .eorr _ _ | .iorr _ _ | .addr _ _ | .subr _ _ | .comr _ _ => 3
  | .loda _ _ | .stra _ _ | .anda _ _ | .eora _ _ | .iora _ _ | .adda _ _ | .suba _ _ | .coma _ _ => 4
  | .bctr _ _ | .bcta _ _ | .bcfr _ _ | .bcfa _ _ | .zbrr _ | .bxa _ | .brnr _ _ | .brna _ _ => 3
  | .birr _ _ | .bira _ _ | .bdrr _ _ | .bdra _ _ | .bstr _ _ | .bsta _ _ | .bsfr _ _ | .bsfa _ _ => 3
  | .zbsr _ | .bsxa _ | .bsnr _ _ | .bsna _ _ | .retc _ | .rete _ => 3
  | .cpsu _ | .cpsl _ | .ppsu _ | .ppsl _ | .tpsu _ | .tpsl _ | .tmi _ _ | .dar _ | .rede _ _ | .wrte _ _ => 3
  | .illegal op => Config.illegalCycles op

/-- The default table for CYCLES (R253, from general knowledge). -/
def defaultCycles (op : Byte) : Nat := instrCycles (decodeBytes op 0 0)

end Sys2Proof.Machine
end

