-- ==== Sys2Proof/Safety.lean ====
section
/-!
DEFINITION. The words the statements are made of: what a step keeps (frames), what an operand form supplies, the
invariant of the machine, and which instructions transfer control. This core has no fault and no refusal (R49, R210), so
a safe run is a run that keeps the invariant.
-/

namespace Sys2Proof.Machine

/-! ### Frames -/

/-- Every general register but those named, and the bank that no instruction reaches, is unchanged. -/
def RegsKept (except : List Reg) (s t : State) : Prop :=
  (∀ q, q ∉ except → t.reg q = s.reg q) ∧ t.inactiveBank = s.inactiveBank

/-- Every bit of PSL outside the mask is unchanged. -/
def PslKept (mask : Byte) (s t : State) : Prop :=
  t.psl &&& ~~~mask = s.psl &&& ~~~mask

/-- PSU and every entry of the return-address stack are unchanged. -/
def StackKept (s t : State) : Prop :=
  t.psu = s.psu ∧ t.ras = s.ras

/-- Every byte of memory reads as before. -/
def MemKept (s t : State) : Prop :=
  ∀ a, t.peek a = s.peek a

/-- No byte was taken from the environment by a port read. -/
def InputsKept (s t : State) : Prop :=
  t.portIn = s.portIn ∧ t.inputs = s.inputs

/-- The run state, the request level, IR, PPC, the parameters, the coming events and the coming vector bytes are
unchanged. -/
def RestKept (s t : State) : Prop :=
  t.halted = s.halted ∧ t.irq = s.irq ∧ t.ir = s.ir ∧ t.ppc = s.ppc ∧ t.params = s.params ∧ t.events = s.events ∧
    t.vectors = s.vectors

/-- The frame of an instruction that writes at most the named registers and the masked bits of PSL. -/
def Frame (regs : List Reg) (mask : Byte) (s t : State) : Prop :=
  RegsKept regs s t ∧ PslKept mask s t ∧ StackKept s t ∧ MemKept s t ∧ InputsKept s t ∧ RestKept s t

/-- The frame of a subroutine call or a return: PSU and the stack are said apart. -/
def CallFrame (s t : State) : Prop :=
  RegsKept [] s t ∧ t.psl = s.psl ∧ MemKept s t ∧ InputsKept s t ∧ RestKept s t

/-- Program counter, EA, rsel and the bus transactions are those of f. -/
def ControlOf (f t : State) : Prop :=
  t.pc = f.pc ∧ t.ea = f.ea ∧ t.rsel = f.rsel ∧ t.bus = f.bus

/-! ### Masks of PSL -/

/-- CC. -/
def ccMask : Byte := 0xC0

/-- CC, IDC, OVF and C: what an add or a subtract writes (R125). -/
def arithMask : Byte := 0xE5

/-- CC, IDC and C: what a rotate may write (R145). -/
def rotateMask : Byte := 0xE1

/-! ### Operand forms, as the statements name them -/

/-- What an operand form supplies: the state once the operand has been obtained, its byte, the destination register, and
the index register if the form steps one. -/
structure Form where
  after : State
  value : Byte
  dest : Reg
  also : List Reg

/-- Format Z: x[r], into R0 (R69). -/
def formZ (s : State) (r : Reg) : Form := ⟨s, s.reg r, .r0, []⟩

/-- Format I: the literal, into x[r] (R69). -/
def formI (s : State) (r : Reg) (imm : Byte) : Form := ⟨s.nextArg, imm, r, []⟩

/-- Format R: the byte at the relative address, into x[r] (R69). -/
def formR (s : State) (r : Reg) (a : RelArg) : Form :=
  ⟨(s.relEa a).dataRead (s.relEa a).ea, s.peek (s.relEa a).ea, r, []⟩

/-- The index register of an auto-indexed form (R88). -/
def steppedReg (r : Reg) (a : AbsArg) : List Reg :=
  match a.idx with
  | .none => []
  | .indexed => []
  | .autoInc => [r]
  | .autoDec => [r]

/-- Format A: the byte at the absolute address, into x[r], or into R0 when indexed (R69, R87). -/
def formA (s : State) (r : Reg) (a : AbsArg) : Form :=
  ⟨(s.absEa r a).dataRead (s.absEa r a).ea, s.peek (s.absEa r a).ea, dataReg r a, steppedReg r a⟩

/-- The destination's value when the operation reads it: after an auto-index step (R88). -/
def Form.before (o : Form) : Byte := o.after.reg o.dest

/-- The instruction answers a next state in which the destination holds v and PSL satisfies `flags`; every other register
is as the operand form left it, and against the start state only the destination, the stepped index register and the
masked bits of PSL may differ. -/
def WritesReg (res : Result) (s : State) (o : Form) (v : Byte) (mask : Byte) (flags : Byte → Prop) : Prop :=
  ∃ t, res = .next t ∧ t.reg o.dest = v ∧ flags t.psl ∧ (∀ q, q ≠ o.dest → t.reg q = o.after.reg q) ∧
    Frame (o.dest :: o.also) mask s t ∧ ControlOf o.after t

/-- How many data reads the core has made (R41). -/
def State.dataReads (s : State) : Nat := s.bus.countP Transaction.isDataRead

/-! ### Control transfer -/

/-- The instruction transfers to e's EA if `taken`, else it steps over n argument bytes with no transaction (R166); it
changes nothing but the program counter, EA, the bus record and the named registers. -/
def Branches (res : Result) (s : State) (regs : List Reg) (taken : Bool) (e : State) (n : BitVec 13)
    (also : State → Prop) : Prop :=
  ∃ t, res = .next t ∧ also t ∧ Frame regs 0 s t ∧ t.rsel = s.rsel ∧
    (if taken then t.pc = e.ea ∧ t.ea = e.ea ∧ t.bus = e.bus
      else t.pc = wrapAdd s.pc n ∧ t.ea = s.ea ∧ t.bus = s.bus)

/-- A call: as `Branches`, and when taken the address after the n argument bytes is stored at RAS[SP] and SP is
incremented modulo 8, no other bit of PSU and no other entry changing (R28, R166). -/
def Calls (res : Result) (s : State) (taken : Bool) (e : State) (n : BitVec 13) : Prop :=
  ∃ t, res = .next t ∧ CallFrame s t ∧ t.rsel = s.rsel ∧
    (if taken then
      t.pc = e.ea ∧ t.ea = e.ea ∧ t.bus = e.bus ∧
        t.ras.toList = s.ras.toList.set (psuSp s.psu).toNat (wrapAdd s.pc n) ∧
        psuSp t.psu = psuSp s.psu + 1 ∧ t.psu &&& 0xF8 = s.psu &&& 0xF8
      else t.pc = wrapAdd s.pc n ∧ t.ea = s.ea ∧ t.bus = s.bus ∧ StackKept s t)

/-- The instructions that may load the program counter otherwise than by stepping over their own bytes (R16, R203). -/
def transfersControl : Instr → Bool
  | .bctr _ _ | .bcta _ _ | .bcfr _ _ | .bcfa _ _ | .zbrr _ | .bxa _ => true
  | .brnr _ _ | .brna _ _ | .birr _ _ | .bira _ _ | .bdrr _ _ | .bdra _ _ => true
  | .bstr _ _ | .bsta _ _ | .bsfr _ _ | .bsfa _ _ | .zbsr _ | .bsxa _ | .bsnr _ _ | .bsna _ _ => true
  | .retc _ | .rete _ | .halt => true
  | _ => false

/-- The instructions that write memory (R42). -/
def storesToMemory : Instr → Bool
  | .strr _ _ | .stra _ _ => true
  | _ => false

/-- The instructions that write the whole of PSL or chosen bits of it (R162). -/
def writesPsl : Instr → Bool
  | .lpsl | .cpsl _ | .ppsl _ => true
  | _ => false

/-- The instructions that write PSU: the status writes, calls and returns (R18, R28, R161). -/
def writesPsu : Instr → Bool
  | .lpsu | .cpsu _ | .ppsu _ => true
  | .bstr _ _ | .bsta _ _ | .bsfr _ _ | .bsfa _ _ | .zbsr _ | .bsxa _ | .bsnr _ _ | .bsna _ _ => true
  | .retc _ | .rete _ => true
  | _ => false

/-! ### Invariant -/

/-- What every state of a run satisfies: the memory is in its canonical form, the unimplemented bits of PSU are 0 (R18),
and a halted core's program counter is the address of a HALT opcode (R30). -/
structure Inv (s : State) : Prop where
  memory : s.mem.wf = true
  unimplemented : s.psu &&& 0x18 = 0
  haltAddress : s.halted = true → s.peek s.pc = 0x40

/-- The scratch values of R32 to R35 replaced. -/
def State.withScratch (s : State) (ir : Byte) (ea : Addr) (rsel : BitVec 2) (ppc : Addr) : State :=
  { s with ir := ir, ea := ea, rsel := rsel, ppc := ppc }

/-- Two states that differ in nothing but the scratch values of R32 to R35. -/
def SameButScratch (s t : State) : Prop :=
  s.withScratch 0 0 0 0 = t.withScratch 0 0 0 0

/-! ### Addresses as numbers, as the rules write them -/

/-- `sext_7` (R6, R81). -/
def sext7 (d : BitVec 7) : Int := if d.toNat < 64 then (d.toNat : Int) else (d.toNat : Int) - 128

/-- The byte after b in the page of b (R84). -/
def nextNat (b : Nat) : Nat := b / 8192 * 8192 + (b + 1) % 8192

/-- The pointer at b: high byte at b, low byte at the next byte of the page, fifteen bits kept (R84). -/
def pointerNat (m : Memory) (b : Nat) : Nat :=
  ((m.read b).toNat * 256 + (m.read (nextNat b)).toNat) % 32768

/-- The address after the indirect bit has been obeyed (R82, R83, R86, R89). -/
def resolvedNat (m : Memory) (ind : Bool) (b : Nat) : Nat := if ind then pointerNat m b else b

/-- The reads that an indirection makes, newest first (R84). -/
def pointerReads (ind : Bool) (b : Nat) : List Transaction :=
  if ind then [.dataRead (BitVec.ofNat 15 (nextNat b)), .dataRead (BitVec.ofNat 15 b)] else []

/-- The index that a format-A instruction adds: none, the register, or the register before or after its step, as the
parameter AUTO_INDEX_ORDER says (R88). -/
def indexNat (s : State) (r : Reg) (a : AbsArg) : Nat :=
  match a.idx with
  | .none => 0
  | .indexed => (s.reg r).toNat
  | .autoInc =>
    match s.params.autoIndex with
    | .post => (s.reg r).toNat
    | .pre => ((s.reg r).toNat + 1) % 256
  | .autoDec =>
    match s.params.autoIndex with
    | .post => (s.reg r).toNat
    | .pre => ((s.reg r).toNat + 255) % 256

/-- The index register after a format-A address calculation, in either order (R88). -/
def steppedNat (s : State) (r : Reg) (a : AbsArg) : Nat :=
  match a.idx with
  | .none => (s.reg r).toNat
  | .indexed => (s.reg r).toNat
  | .autoInc => ((s.reg r).toNat + 1) % 256
  | .autoDec => ((s.reg r).toNat + 255) % 256

/-! ### Results of arithmetic, status and port instructions, as the rules write them -/

/-- The sum of R125. -/
def sumByte (p before src : Byte) : Byte :=
  BitVec.ofNat 8 (before.toNat + src.toNat + (if pslWc p && pslC p then 1 else 0))

/-- The flags of R125, by the source's comparisons of numbers. -/
def SumFlags (before v p : Byte) : Prop :=
  pslC p = decide (v.toNat < before.toNat) ∧ pslIdc p = decide (v.toNat % 16 < before.toNat % 16) ∧
    pslOvf p = decide (v.toNat / 128 ≠ before.toNat / 128) ∧ pslCc p = cc8 v

/-- The difference of R130. -/
def differenceByte (p before src : Byte) : Byte :=
  BitVec.ofInt 8 ((before.toNat : Int) - src.toNat - (if pslWc p && !pslC p then 1 else 0))

/-- The flags of R130. -/
def DifferenceFlags (before v p : Byte) : Prop :=
  pslC p = decide (v.toNat ≤ before.toNat) ∧ pslIdc p = decide (v.toNat % 16 ≤ before.toNat % 16) ∧
    pslOvf p = decide (v.toNat / 128 ≠ before.toNat / 128) ∧ pslCc p = cc8 v

/-- The order code of R135. -/
def orderCode (p a b : Byte) : BitVec 2 :=
  if pslCom p then (if a.toNat = b.toNat then 0 else if b.toNat < a.toNat then 1 else 2)
  else (if a.toInt = b.toInt then 0 else if b.toInt < a.toInt then 1 else 2)

/-- The effect of a write of PSU: the new value, bits 4:3 as 0, and nothing else but the control of f (R161). -/
def WritesPsu (res : Result) (s f : State) (v : Byte) : Prop :=
  ∃ t, res = .next t ∧ t.psu = v &&& 0xE7 ∧ t.ras = s.ras ∧ t.psl = s.psl ∧ RegsKept [] s t ∧ MemKept s t ∧
    InputsKept s t ∧ RestKept s t ∧ ControlOf f t

/-- The effect of a write of PSL in the physical view: the new value, and no register of either bank moves (R162). -/
def WritesPsl (res : Result) (s f : State) (v : Byte) : Prop :=
  ∃ t, res = .next t ∧ t.psl = v ∧ t.r0 = s.r0 ∧ t.bank0 = s.bank0 ∧ t.bank1 = s.bank1 ∧ StackKept s t ∧ MemKept s t ∧
    InputsKept s t ∧ RestKept s t ∧ ControlOf f t

/-- The effect of a port read (R195 to R197): one transfer, the byte answered to the register, CC from it. -/
def ReadsPort (res : Result) (s f : State) (r : Reg) (p : Port) : Prop :=
  let v := s.portIn.headD (Config.freeBusByte s.inputs)
  ∃ t, res = .next t ∧ t.reg r = v ∧ pslCc t.psl = cc8 v ∧ RegsKept [r] s t ∧ PslKept ccMask s t ∧ StackKept s t ∧
    MemKept s t ∧ RestKept s t ∧ t.portIn = s.portIn.tail ∧ t.inputs = s.inputs + 1 ∧ t.pc = f.pc ∧ t.ea = s.ea ∧
    t.rsel = s.rsel ∧ t.bus = .portRead p :: f.bus

/-- The effect of a port write (R198 to R200): one transfer and nothing else. -/
def WritesPort (res : Result) (s f : State) (p : Port) (v : Byte) : Prop :=
  ∃ t, res = .next t ∧ Frame [] 0 s t ∧ t.pc = f.pc ∧ t.ea = s.ea ∧ t.rsel = s.rsel ∧ t.bus = .portWrite p v :: f.bus

/-! ### The indirect bit (R65 to R68, R91) -/

/-- The indirect bit of an instruction of format R, A or B; the formats Z and I have none. -/
def indirectBit : Instr → Option Bool
  | .lodr _ a | .strr _ a | .andr _ a | .eorr _ a | .iorr _ a | .addr _ a | .subr _ a | .comr _ a => some a.ind
  | .loda _ a | .stra _ a | .anda _ a | .eora _ a | .iora _ a | .adda _ a | .suba _ a | .coma _ a => some a.ind
  | .bctr _ a | .bcfr _ a | .zbrr a | .brnr _ a | .birr _ a | .bdrr _ a => some a.ind
  | .bstr _ a | .bsfr _ a | .zbsr a | .bsnr _ a => some a.ind
  | .bcta _ a | .bcfa _ a | .bxa a | .brna _ a | .bira _ a | .bdra _ a => some a.ind
  | .bsta _ a | .bsfa _ a | .bsxa a | .bsna _ a => some a.ind
  | _ => none

/-- The same instruction with the indirect bit b, if it has one. -/
def withIndirect (b : Bool) : Instr → Instr
  | .lodr r a => .lodr r { a with ind := b }
  | .loda r a => .loda r { a with ind := b }
  | .strr r a => .strr r { a with ind := b }
  | .stra r a => .stra r { a with ind := b }
  | .andr r a => .andr r { a with ind := b }
  | .anda r a => .anda r { a with ind := b }
  | .eorr r a => .eorr r { a with ind := b }
  | .eora r a => .eora r { a with ind := b }
  | .iorr r a => .iorr r { a with ind := b }
  | .iora r a => .iora r { a with ind := b }
  | .addr r a => .addr r { a with ind := b }
  | .adda r a => .adda r { a with ind := b }
  | .subr r a => .subr r { a with ind := b }
  | .suba r a => .suba r { a with ind := b }
  | .comr r a => .comr r { a with ind := b }
  | .coma r a => .coma r { a with ind := b }
  | .bctr v a => .bctr v { a with ind := b }
  | .bcta v a => .bcta v { a with ind := b }
  | .bcfr v a => .bcfr v { a with ind := b }
  | .bcfa v a => .bcfa v { a with ind := b }
  | .zbrr a => .zbrr { a with ind := b }
  | .bxa a => .bxa { a with ind := b }
  | .brnr r a => .brnr r { a with ind := b }
  | .brna r a => .brna r { a with ind := b }
  | .birr r a => .birr r { a with ind := b }
  | .bira r a => .bira r { a with ind := b }
  | .bdrr r a => .bdrr r { a with ind := b }
  | .bdra r a => .bdra r { a with ind := b }
  | .bstr v a => .bstr v { a with ind := b }
  | .bsta v a => .bsta v { a with ind := b }
  | .bsfr v a => .bsfr v { a with ind := b }
  | .bsfa v a => .bsfa v { a with ind := b }
  | .zbsr a => .zbsr { a with ind := b }
  | .bsxa a => .bsxa { a with ind := b }
  | .bsnr r a => .bsnr r { a with ind := b }
  | .bsna r a => .bsna r { a with ind := b }
  | i => i

/-- Whether the instruction transfers control, or does not depend on a test at all: the branches and calls that are not
taken form no effective address (R166). -/
def passesTest (s : State) : Instr → Bool
  | .bctr v _ | .bcta v _ | .bstr v _ | .bsta v _ => decide (v = .always ∨ pslCc s.psl = v.bits)
  | .bcfr v _ | .bcfa v _ | .bsfr v _ | .bsfa v _ => decide (pslCc s.psl ≠ v.bits)
  | .brnr r _ | .brna r _ | .bsnr r _ | .bsna r _ => decide (s.reg r ≠ 0)
  | .birr r _ | .bira r _ => decide (s.reg r ≠ 0xFF)
  | .bdrr r _ | .bdra r _ => decide (s.reg r ≠ 0x01)
  | _ => true

/-! ### Packed decimal (R142) -/

/-- Both digits are decimal. -/
def isBcd (v : Byte) : Bool := decide (v.toNat / 16 < 10) && decide (v.toNat % 16 < 10)

/-- The number that two packed decimal digits stand for. -/
def bcdValue (v : Byte) : Nat := v.toNat / 16 * 10 + v.toNat % 16

end Sys2Proof.Machine
end

