-- ==== Sys2Proof/Certificates/Slice0/Obligations.lean ====
section
/-!
DEFINITION. The statements for the provers. Each names the rule of spec/ it rests on. Words of the statements
(Frame, WritesReg, Branches, Calls, Inv, pointerNat ...) are defined in Sys2Proof/Safety.lean.
-/

open Sys2Proof Sys2Proof.Machine

/-! ### Encoding and the step -/

/-- R60 to R72: the decoder reads back every well-formed instruction that the encoder writes, with every operand, and
leaves the bytes after it. -/
def Obligations.DecodeReadsBackEveryEncoding : Prop :=
  ∀ (i : Instr) (rest : List Byte), i.wf = true → decode (encode i ++ rest) = .instr i rest

/-- R60, R72, R74: every three bytes begin a well-formed instruction, and the encoder writes back exactly the bytes that
the opcode's length takes: no opcode fails and no bit of an argument byte is dropped. -/
def Obligations.EveryByteSequenceEncodesBack : Prop :=
  ∀ op b1 b2 : Byte,
    (decodeBytes op b1 b2).wf = true ∧
      encode (decodeBytes op b1 b2) = [op, b1, b2].take (opcodeLength op) ∧
      (opcodeLength op = 1 ∨ opcodeLength op = 2 ∨ opcodeLength op = 3)

/-- R65 to R71: words written out from the encodings, one or more per family. -/
def Obligations.SpecWordsDecodeToTheirInstructions : Prop :=
  decode [0b00000110, 0x7F] = .instr (.lodi .r2 0x7F) [] ∧
    decode [0b00001101, 0b10100001, 0x23] = .instr (.loda .r1 ⟨true, .autoInc, 0x0123⟩) [] ∧
    decode [0b11001011, 0b11111110] = .instr (.strr .r3 ⟨true, 0x7E⟩) [] ∧
    decode [0b01000001] = .instr (.andz .r1) [] ∧
    decode [0b10100111, 0x0F] = .instr (.subi .r3 0x0F) [] ∧
    decode [0b10010110] = .instr (.dar .r2) [] ∧
    decode [0b11010010] = .instr (.rrl .r2) [] ∧
    decode [0b01110101, 0x08] = .instr (.cpsl 0x08) [] ∧
    decode [0b10011101, 0b11000101, 0x67] = .instr (.bcfa .plus ⟨true, 0x4567⟩) [] ∧
    decode [0b10011111, 0x1F, 0xF8] = .instr (.bxa ⟨false, 0x1FF8⟩) [] ∧
    decode [0b00110111] = .instr (.rete .always) [] ∧
    decode [0b01010110, 0x42] = .instr (.rede .r2 0x42) [] ∧
    decode [0b01000000] = .instr .halt [] ∧
    decode [0b11000101, 0x05] = .instr (.illegal 0xC5) [0x05]

/-- R9, R61: when no event arrives, the core is not halted and no interrupt is to be taken, the step performs the rule of
the instruction that the bytes at the program counter encode (argument bytes wrapping in the page), after PPC, IR and
rsel have been written and the opcode has been fetched. -/
def Obligations.StepRunsTheDecodedInstruction : Prop :=
  ∀ (s : State) (i : Instr) (rest : List Byte),
    s.arrived = [] → s.halted = false → (s.irq = false ∨ psuIi s.psu = true) →
    decode [s.peek s.pc, s.peek (nextInPage s.pc), s.peek (nextInPage (nextInPage s.pc))] = .instr i rest →
    step s =
      exec i
        { s with
          events := s.events.tail
          ppc := s.pc
          ir := s.peek s.pc
          rsel := (s.peek s.pc).extractLsb' 0 2
          offset := s.offset + 1
          bus := .fetchOp s.pc :: s.bus }

/-- R49, R74, R210: in every state the step answers a next state: no opcode, address, stack depth or mode stops the
core. -/
def Obligations.EveryStateHasANextState : Prop :=
  ∀ s : State, ∃ t, step s = .next t

/-- R18, R30, R42: every step keeps the canonical form of the memory, the unimplemented bits of PSU at 0, and the program
counter of a halted core at a HALT opcode. -/
def Obligations.EveryStepKeepsTheInvariant : Prop :=
  ∀ s t : State, Inv s → step s = .next t → Inv t

/-- The reset state satisfies the invariant. -/
def Obligations.ResetSatisfiesTheInvariant : Prop :=
  Inv State.reset

/-- R32 to R35: IR, EA, rsel and PPC are scratch: from two states that differ in them alone, the step answers two states
that differ in them alone. -/
def Obligations.ScratchValuesAreNeverRead : Prop :=
  ∀ (s : State) (ir : Byte) (ea : Addr) (rsel : BitVec 2) (ppc : Addr),
    ∃ t u, step s = .next t ∧ step (s.withScratch ir ea rsel ppc) = .next u ∧ SameButScratch t u

/-! ### Reset, events, halted state, interrupt -/

/-- R37: every field of the core after reset. -/
def Obligations.ResetValues : Prop :=
  let s := State.reset
  s.r0 = 0 ∧ s.bank0 = ⟨0, 0, 0⟩ ∧ s.bank1 = ⟨0, 0, 0⟩ ∧ s.psl = 0x0A ∧ s.psu = 0x80 ∧ s.page = 0 ∧ s.offset = 0 ∧
    s.pc = 0x0000 ∧ s.ras.toList = [0, 0, 0, 0, 0, 0, 0, 0] ∧ s.halted = false ∧ s.irq = false ∧ s.ir = 0 ∧ s.ea = 0 ∧
    s.rsel = 0 ∧ s.ppc = 0

/-- R240, R243: a Reset that arrives for a boundary puts the whole core to its reset values, whatever was pending and
whether or not the core was halted; memory is not touched. That the parameters, the environment's answers and the record
of transactions are not touched either, and that no instruction runs in that step, is the model's reading (log 6). -/
def Obligations.ResetEventResetsTheCore : Prop :=
  ∀ s : State, s.arrived = [.reset] →
    step s =
      .next
        { State.reset with
          mem := s.mem
          params := s.params
          events := s.events.tail
          vectors := s.vectors
          portIn := s.portIn
          inputs := s.inputs
          bus := s.bus }

/-- R9, R240 to R242: the step after the one in which a Reset arrived, with no event, fetches the opcode at 0x0000 as its
first transaction. That the step in which the Reset arrives fetches nothing itself, so that the fetch comes one step later,
is the model's reading of R9 (log 6). -/
def Obligations.FirstActionAfterResetFetchesAtZero : Prop :=
  ∀ s t u : State, s.arrived = [.reset] → step s = .next t → t.arrived = [] → step t = .next u →
    ∃ later, u.bus = later ++ .fetchOp 0x0000 :: t.bus ∧ u.ppc = 0x0000

/-- R8, R24, R212, R222: an IrqChange or a SenseChange that arrives for a boundary is applied before the step does
anything else; the first writes the request level, the second writes bit 7 of PSU, and neither has another effect. -/
def Obligations.InputEventsAreAppliedFirst : Prop :=
  ∀ (s : State) (level : Bool) (rest : List Event) (later : List (List Event)),
    (s.events = (.irqChange level :: rest) :: later →
      step s = step { s with irq := level, events := rest :: later }) ∧
    (s.events = (.senseChange level :: rest) :: later →
      step s =
        step { s with
          psu := if level then s.psu ||| 0x80 else s.psu &&& 0x7F
          events := rest :: later })

/-- R30, R203: a halted core with no event and no interrupt to be taken does nothing and makes no transaction. -/
def Obligations.HaltedCoreDoesNothing : Prop :=
  ∀ s : State, s.arrived = [] → s.halted = true → (s.irq = false ∨ psuIi s.psu = true) →
    step s = .next { s with events := s.events.tail }

/-- R84, R214 to R218, R223: interrupt entry. That the vector byte is the next one State lists, or a free value when it
lists none, and what becomes of the list and the counter, is the model's form of the environment (log 7); that IR, rsel and
PPC keep their values is the model's choice for the scratch values (log 13). -/
def Obligations.InterruptEntrySavesAndChanges : Prop :=
  ∀ s : State, s.arrived = [] → s.irq = true → psuIi s.psu = false →
    let back := mkAddr s.page (if s.halted then s.offset + 1 else s.offset)
    let vec := s.vectors.headD (Config.freeBusByte s.inputs)
    let target := (sext7 (vec.extractLsb' 0 7) % 8192).toNat
    ∃ t, step s = .next t ∧
      t.ras.toList = s.ras.toList.set (psuSp s.psu).toNat back ∧
      psuSp t.psu = psuSp s.psu + 1 ∧ psuIi t.psu = true ∧ t.psu &&& 0xD8 = s.psu &&& 0xD8 ∧
      t.halted = false ∧ t.pc.toNat = resolvedNat s.mem (vec.getLsbD 7) target ∧
      t.bus = pointerReads (vec.getLsbD 7) target ++ .intAck :: s.bus ∧
      t.psl = s.psl ∧ t.r0 = s.r0 ∧ t.bank0 = s.bank0 ∧ t.bank1 = s.bank1 ∧ t.mem = s.mem ∧ t.irq = s.irq ∧
      t.ir = s.ir ∧ t.rsel = s.rsel ∧ t.ppc = s.ppc ∧ t.params = s.params ∧ t.portIn = s.portIn ∧
      t.vectors = s.vectors.tail ∧ t.inputs = s.inputs + 1 ∧ t.events = s.events.tail

/-- R221: the pop of RETE and the push of interrupt entry cancel: a taken RETE at once after an entry that did not find
the core halted gives back the program counter, PSU, PSL and every register. -/
def Obligations.ReturnUndoesInterruptEntry : Prop :=
  ∀ s t : State, s.arrived = [] → s.irq = true → psuIi s.psu = false → s.halted = false → step s = .next t →
    ∃ u, exec (.rete .always) t = .next u ∧ u.pc = s.pc ∧ u.psu = s.psu ∧ u.psl = s.psl ∧ u.halted = false ∧
      (∀ q, u.reg q = s.reg q) ∧ u.inactiveBank = s.inactiveBank ∧ MemKept s u

/-- R163, R214: an instruction that leaves II clear while the request is asserted is followed by the interrupt sequence:
the next step fetches nothing. -/
def Obligations.ClearingInhibitTakesThePendingInterrupt : Prop :=
  ∀ (s t : State) (mask : Byte), s.irq = true → s.arrived = [] → mask.getLsbD 5 = true →
    exec (.cpsu mask) s = .next t →
    ∃ u, step t = .next u ∧ psuIi u.psu = true ∧ u.ir = t.ir ∧ u.ppc = t.ppc ∧
      u.ras.toList = t.ras.toList.set (psuSp t.psu).toNat (if s.halted then wrapAdd t.pc 1 else t.pc)

/-! ### Addresses -/

/-- R81, R82, R84: the page-relative effective address of an argument byte, its transactions, and that the calculator
changes nothing but the offset, EA and the record. -/
def Obligations.RelativeEffectiveAddress : Prop :=
  ∀ (s : State) (hr : Byte),
    let ind := hr.getLsbD 7
    let base := s.page.toNat * 8192 + (((s.offset.toNat : Int) + 1 + sext7 (hr.extractLsb' 0 7)) % 8192).toNat
    let e := s.relEa (RelArg.ofByte hr)
    e.ea.toNat = resolvedNat s.mem ind base ∧
      e.bus = pointerReads ind base ++ .fetchArg s.pc :: s.bus ∧
      e = { s with offset := s.offset + 1, ea := e.ea, bus := e.bus }

/-- R83, R84: the zero-page-relative effective address of an argument byte. -/
def Obligations.ZeroPageEffectiveAddress : Prop :=
  ∀ (s : State) (hr : Byte),
    let ind := hr.getLsbD 7
    let base := (sext7 (hr.extractLsb' 0 7) % 8192).toNat
    let e := s.zeroEa (RelArg.ofByte hr)
    e.ea.toNat = resolvedNat s.mem ind base ∧
      e.bus = pointerReads ind base ++ .fetchArg s.pc :: s.bus ∧
      e = { s with offset := s.offset + 1, ea := e.ea, bus := e.bus }

/-- R85 to R88: the absolute effective address of two argument bytes in the page of the instruction, indirection before
the index, the index wrapping in the page, the step of an auto form in either order of the open parameter, and rsel. -/
def Obligations.AbsoluteEffectiveAddress : Prop :=
  ∀ (s : State) (r : Reg) (hr dr : Byte),
    let a := AbsArg.ofBytes hr dr
    let ind := hr.getLsbD 7
    let base := s.page.toNat * 8192 + (hr.toNat * 256 + dr.toNat) % 8192
    let p := resolvedNat s.mem ind base
    let e := s.absEa r a
    a.idx.bits = hr.extractLsb' 5 2 ∧
      e.ea.toNat = p / 8192 * 8192 + (p % 8192 + indexNat s r a) % 8192 ∧
      (e.reg r).toNat = steppedNat s r a ∧
      Frame (steppedReg r a) 0 s e ∧
      e.rsel = (if a.idx = .none then s.rsel else 0) ∧
      e.pc = wrapAdd s.pc 2 ∧
      e.bus = pointerReads ind base ++ .fetchArg (wrapAdd s.pc 1) :: .fetchArg s.pc :: s.bus

/-- R89, R90: the branch-absolute effective address over all fifteen bits of two argument bytes, and the index of BXA and
BSXA, register 3 added after the indirection and wrapping only at 32768. -/
def Obligations.BranchAbsoluteEffectiveAddress : Prop :=
  ∀ (s : State) (hr dr : Byte),
    let ind := hr.getLsbD 7
    let base := (hr.toNat * 256 + dr.toNat) % 32768
    let p := resolvedNat s.mem ind base
    let e := s.braEa (BraArg.ofBytes hr dr)
    let x := s.braIndexedEa (BraArg.ofBytes hr dr)
    e.ea.toNat = p ∧ x.ea.toNat = (p + (s.reg .r3).toNat) % 32768 ∧
      e.bus = pointerReads ind base ++ .fetchArg (wrapAdd s.pc 1) :: .fetchArg s.pc :: s.bus ∧
      e = { s with offset := s.offset + 2, ea := e.ea, bus := e.bus } ∧ x = { e with ea := x.ea }

/-! ### Load and store -/

/-- R104: the loads write exactly the byte read to the destination and CC from it, no other bit of PSL or PSU, and read
memory once for the operand and twice more when indirect. -/
def Obligations.LoadsWriteTheByteReadAndCc : Prop :=
  (∀ (r : Reg) (s : State),
    WritesReg (exec (.lodz r) s) s (formZ s r) (s.reg r) ccMask (fun p => pslCc p = cc8 (s.reg r))) ∧
  (∀ (r : Reg) (imm : Byte) (s : State),
    WritesReg (exec (.lodi r imm) s) s (formI s r imm) imm ccMask (fun p => pslCc p = cc8 imm)) ∧
  (∀ (r : Reg) (a : RelArg) (s : State),
    WritesReg (exec (.lodr r a) s) s (formR s r a) (s.peek (s.relEa a).ea) ccMask
      (fun p => pslCc p = cc8 (s.peek (s.relEa a).ea)) ∧
    (formR s r a).after.dataReads = s.dataReads + 1 + (if a.ind then 2 else 0)) ∧
  (∀ (r : Reg) (a : AbsArg) (s : State),
    WritesReg (exec (.loda r a) s) s (formA s r a) (s.peek (s.absEa r a).ea) ccMask
      (fun p => pslCc p = cc8 (s.peek (s.absEa r a).ea)) ∧
    (formA s r a).after.dataReads = s.dataReads + 1 + (if a.ind then 2 else 0))

/-- R105: STRZ copies R0 to the named register and sets CC from it. -/
def Obligations.StoreZeroCopiesR0AndSetsCc : Prop :=
  ∀ (r : Reg) (s : State),
    WritesReg (exec (.strz r) s) s ⟨s, s.r0, r, []⟩ s.r0 ccMask (fun p => pslCc p = cc8 s.r0)

/-- R106, R108: STRR stores the whole register at the relative effective address, in one write, and changes nothing else
but the program counter and EA. -/
def Obligations.StoreRelativeWritesOneByte : Prop :=
  ∀ (r : Reg) (a : RelArg) (s : State),
    let e := s.relEa a
    ∃ t, exec (.strr r a) s = .next t ∧
      (s.mem.wf = true → t.peek e.ea = s.reg r) ∧ (∀ x, x ≠ e.ea → t.peek x = s.peek x) ∧
      t.bus = .memWrite e.ea (s.reg r) :: e.bus ∧
      RegsKept [] s t ∧ t.psl = s.psl ∧ StackKept s t ∧ InputsKept s t ∧ RestKept s t ∧
      t.pc = wrapAdd s.pc 1 ∧ t.ea = e.ea ∧ t.rsel = s.rsel

/-- R107, R108: STRA stores the register operand (R0 when indexed, after any step of the index) at the absolute effective
address, in one write; no register but an auto-indexed one and no flag is written. -/
def Obligations.StoreAbsoluteWritesOneByte : Prop :=
  ∀ (r : Reg) (a : AbsArg) (s : State),
    let e := s.absEa r a
    let v := e.reg (if a.idx = .none then r else .r0)
    ∃ t, exec (.stra r a) s = .next t ∧
      (s.mem.wf = true → t.peek e.ea = v) ∧ (∀ x, x ≠ e.ea → t.peek x = s.peek x) ∧
      t.bus = .memWrite e.ea v :: e.bus ∧
      (∀ q, t.reg q = e.reg q) ∧ RegsKept (steppedReg r a) s t ∧ t.psl = s.psl ∧ StackKept s t ∧ InputsKept s t ∧
      RestKept s t ∧ t.pc = wrapAdd s.pc 2 ∧ t.ea = e.ea ∧ t.rsel = e.rsel

/-- R42: no instruction but STRR and STRA writes memory. -/
def Obligations.OnlyStoresWriteMemory : Prop :=
  ∀ (i : Instr) (s : State), storesToMemory i = false → ∃ t, exec i s = .next t ∧ t.mem = s.mem

/-- R52, R245: what STRR or STRA stores is what the fetch of the very next instruction sees, as its opcode or as either of
its argument bytes: `State.fetched`, which step decodes, reads the stored byte at the stored address and every other byte as
it stood. -/
def Obligations.StoreIsSeenByTheNextFetch : Prop :=
  ∀ (r : Reg) (s : State), s.mem.wf = true →
    let fetchedWith := fun (stored n : Addr) (v : Byte) =>
      let seen := fun x : Addr => if x = stored then v else s.peek x
      decodeBytes (seen n) (seen (nextInPage n)) (seen (nextInPage (nextInPage n)))
    (∀ a : RelArg, ∃ t, exec (.strr r a) s = .next t ∧ t.pc = wrapAdd s.pc 1 ∧
      t.fetched = fetchedWith (s.relEa a).ea (wrapAdd s.pc 1) (s.reg r)) ∧
    (∀ a : AbsArg, ∃ t, exec (.stra r a) s = .next t ∧ t.pc = wrapAdd s.pc 2 ∧
      t.fetched =
        fetchedWith (s.absEa r a).ea (wrapAdd s.pc 2) ((s.absEa r a).reg (if a.idx = .none then r else .r0)))

/-! ### Logical -/

/-- R110, R111, R114, R115, R118, R119, R122: AND, exclusive OR and inclusive OR with a register or a literal. -/
def Obligations.LogicalOnRegisterOrLiteral : Prop :=
  (∀ (r : Reg) (s : State),
    WritesReg (exec (.andz r) s) s (formZ s r) (s.r0 &&& s.reg r) ccMask (fun p => pslCc p = cc8 (s.r0 &&& s.reg r)) ∧
    WritesReg (exec (.eorz r) s) s (formZ s r) (s.r0 ^^^ s.reg r) ccMask (fun p => pslCc p = cc8 (s.r0 ^^^ s.reg r)) ∧
    WritesReg (exec (.iorz r) s) s (formZ s r) (s.r0 ||| s.reg r) ccMask (fun p => pslCc p = cc8 (s.r0 ||| s.reg r))) ∧
  (∀ (r : Reg) (imm : Byte) (s : State),
    WritesReg (exec (.andi r imm) s) s (formI s r imm) (s.reg r &&& imm) ccMask
      (fun p => pslCc p = cc8 (s.reg r &&& imm)) ∧
    WritesReg (exec (.eori r imm) s) s (formI s r imm) (s.reg r ^^^ imm) ccMask
      (fun p => pslCc p = cc8 (s.reg r ^^^ imm)) ∧
    WritesReg (exec (.iori r imm) s) s (formI s r imm) (s.reg r ||| imm) ccMask
      (fun p => pslCc p = cc8 (s.reg r ||| imm)))

/-- R112, R113, R116, R117, R120 to R122: the same operations with a byte of memory, read once; in the indexed forms the
destination is R0, after any step of the index. -/
def Obligations.LogicalOnMemory : Prop :=
  (∀ (r : Reg) (a : RelArg) (s : State),
    let v := s.peek (s.relEa a).ea
    WritesReg (exec (.andr r a) s) s (formR s r a) (s.reg r &&& v) ccMask (fun p => pslCc p = cc8 (s.reg r &&& v)) ∧
    WritesReg (exec (.eorr r a) s) s (formR s r a) (s.reg r ^^^ v) ccMask (fun p => pslCc p = cc8 (s.reg r ^^^ v)) ∧
    WritesReg (exec (.iorr r a) s) s (formR s r a) (s.reg r ||| v) ccMask (fun p => pslCc p = cc8 (s.reg r ||| v))) ∧
  (∀ (r : Reg) (a : AbsArg) (s : State),
    let v := s.peek (s.absEa r a).ea
    let old := (formA s r a).before
    WritesReg (exec (.anda r a) s) s (formA s r a) (old &&& v) ccMask (fun p => pslCc p = cc8 (old &&& v)) ∧
    WritesReg (exec (.eora r a) s) s (formA s r a) (old ^^^ v) ccMask (fun p => pslCc p = cc8 (old ^^^ v)) ∧
    WritesReg (exec (.iora r a) s) s (formA s r a) (old ||| v) ccMask (fun p => pslCc p = cc8 (old ||| v)))

/-! ### Arithmetic -/

/-- R125 to R129: the adds in their four forms. -/
def Obligations.AddsWriteSumAndFlags : Prop :=
  (∀ (r : Reg) (s : State),
    let v := sumByte s.psl s.r0 (s.reg r)
    WritesReg (exec (.addz r) s) s (formZ s r) v arithMask (SumFlags s.r0 v)) ∧
  (∀ (r : Reg) (imm : Byte) (s : State),
    let v := sumByte s.psl (s.reg r) imm
    WritesReg (exec (.addi r imm) s) s (formI s r imm) v arithMask (SumFlags (s.reg r) v)) ∧
  (∀ (r : Reg) (a : RelArg) (s : State),
    let v := sumByte s.psl (s.reg r) (s.peek (s.relEa a).ea)
    WritesReg (exec (.addr r a) s) s (formR s r a) v arithMask (SumFlags (s.reg r) v)) ∧
  (∀ (r : Reg) (a : AbsArg) (s : State),
    let old := (formA s r a).before
    let v := sumByte s.psl old (s.peek (s.absEa r a).ea)
    WritesReg (exec (.adda r a) s) s (formA s r a) v arithMask (SumFlags old v))

/-- R130 to R134: the subtracts in their four forms. -/
def Obligations.SubtractsWriteDifferenceAndFlags : Prop :=
  (∀ (r : Reg) (s : State),
    let v := differenceByte s.psl s.r0 (s.reg r)
    WritesReg (exec (.subz r) s) s (formZ s r) v arithMask (DifferenceFlags s.r0 v)) ∧
  (∀ (r : Reg) (imm : Byte) (s : State),
    let v := differenceByte s.psl (s.reg r) imm
    WritesReg (exec (.subi r imm) s) s (formI s r imm) v arithMask (DifferenceFlags (s.reg r) v)) ∧
  (∀ (r : Reg) (a : RelArg) (s : State),
    let v := differenceByte s.psl (s.reg r) (s.peek (s.relEa a).ea)
    WritesReg (exec (.subr r a) s) s (formR s r a) v arithMask (DifferenceFlags (s.reg r) v)) ∧
  (∀ (r : Reg) (a : AbsArg) (s : State),
    let old := (formA s r a).before
    let v := differenceByte s.psl old (s.peek (s.absEa r a).ea)
    WritesReg (exec (.suba r a) s) s (formA s r a) v arithMask (DifferenceFlags old v))

/-- R135 to R139: the compares in their four forms write CC alone, by the true order of the operands, unsigned or signed
as COM says. -/
def Obligations.ComparesWriteTheTrueOrder : Prop :=
  (∀ (r : Reg) (s : State),
    WritesReg (exec (.comz r) s) s (formZ s r) s.r0 ccMask (fun p => pslCc p = orderCode s.psl s.r0 (s.reg r))) ∧
  (∀ (r : Reg) (imm : Byte) (s : State),
    WritesReg (exec (.comi r imm) s) s (formI s r imm) (s.reg r) ccMask
      (fun p => pslCc p = orderCode s.psl (s.reg r) imm)) ∧
  (∀ (r : Reg) (a : RelArg) (s : State),
    WritesReg (exec (.comr r a) s) s (formR s r a) (s.reg r) ccMask
      (fun p => pslCc p = orderCode s.psl (s.reg r) (s.peek (s.relEa a).ea))) ∧
  (∀ (r : Reg) (a : AbsArg) (s : State),
    let old := (formA s r a).before
    WritesReg (exec (.coma r a) s) s (formA s r a) old ccMask
      (fun p => pslCc p = orderCode s.psl old (s.peek (s.absEa r a).ea)))

/-- R125, consequences: C is the true carry out of bit 7 and IDC out of bit 3, but for a carry-in of 1 with an operand
(or a low digit) of all ones, where the result (or its low digit) is the old one and the flag is 0. -/
def Obligations.AddCarriesAreTrueCarriesButForOneCorner : Prop :=
  ∀ p before src : Byte,
    let cin := if pslWc p && pslC p then 1 else 0
    let q := (add8 p before src).psl
    (¬ (cin = 1 ∧ src = 0xFF) → pslC q = decide (256 ≤ before.toNat + src.toNat + cin)) ∧
      (cin = 1 ∧ src = 0xFF → (add8 p before src).value = before ∧ pslC q = false) ∧
      (¬ (cin = 1 ∧ src.toNat % 16 = 15) →
        pslIdc q = decide (16 ≤ before.toNat % 16 + src.toNat % 16 + cin)) ∧
      (cin = 1 ∧ src.toNat % 16 = 15 → pslIdc q = false)

/-- R130, consequences: C is the true not-borrow out of bit 7 and IDC out of bit 3, but for a borrow-in of 1 with an
operand (or a low digit) of all ones, where the flag is 1. -/
def Obligations.SubtractBorrowsAreTrueBorrowsButForOneCorner : Prop :=
  ∀ p before src : Byte,
    let bin := if pslWc p && !pslC p then 1 else 0
    let q := (sub8 p before src).psl
    (¬ (bin = 1 ∧ src = 0xFF) → pslC q = decide (src.toNat + bin ≤ before.toNat)) ∧
      (bin = 1 ∧ src = 0xFF → (sub8 p before src).value = before ∧ pslC q = true) ∧
      (¬ (bin = 1 ∧ src.toNat % 16 = 15) →
        pslIdc q = decide (src.toNat % 16 + bin ≤ before.toNat % 16)) ∧
      (bin = 1 ∧ src.toNat % 16 = 15 → pslIdc q = true)

/-- R20: the two uses of the 512-entry condition-code table: CC alone keeps OVF, and an add or a subtract writes CC and
OVF by the table at the composite index of the result and the top-bit difference. -/
def Obligations.FlagsAgreeWithTheConditionCodeTable : Prop :=
  ∀ p before src result : Byte,
    let idx := fun v : Byte => v.setWidth 9 + (((v ^^^ before).setWidth 9 <<< 1) &&& 0x100#9)
    withCc p (cc8 result) = (p &&& 0x3F) ||| ccTable (result.setWidth 9) ∧
      (add8 p before src).psl &&& 0xC4 = ccTable (idx (add8 p before src).value) ∧
      (sub8 p before src).psl &&& 0xC4 = ccTable (idx (sub8 p before src).value)

/-- R141: DAR subtracts from the register the constant that C and IDC select in the table DAR_ADJ, modulo 256, and writes
no flag; the default table of the parameter is 0x66, 0x60, 0x06, 0x00. -/
def Obligations.DecimalAdjustSubtractsTheSelectedConstant : Prop :=
  Config.darDefault = ⟨0x66, 0x60, 0x06, 0x00⟩ ∧
  ∀ (r : Reg) (s : State),
    let k := if pslC s.psl then (if pslIdc s.psl then s.params.darAdj.k11 else s.params.darAdj.k10)
      else (if pslIdc s.psl then s.params.darAdj.k01 else s.params.darAdj.k00)
    WritesReg (exec (.dar r) s) s ⟨s, k, r, []⟩ (s.reg r - k) 0 (fun p => p = s.psl)

/-- R142: with the default table and WC = 0, adding 0x66, adding the second operand and adjusting gives the packed
decimal sum, with C as its hundreds digit. -/
def Obligations.DecimalAdditionRecipeIsRight : Prop :=
  ∀ p x y : Byte, pslWc p = false → isBcd x = true → isBcd y = true →
    let u := add8 p x 0x66
    let w := add8 u.psl u.value y
    let d := w.value - darConstant Config.darDefault (pslC w.psl) (pslIdc w.psl)
    isBcd d = true ∧ bcdValue d + (if pslC w.psl then 100 else 0) = bcdValue x + bcdValue y

/-! ### Rotate -/

/-- R145 to R147: one bit left or right, circular when WC = 0, through C when WC = 1, with CC from the result and, when
WC = 1, C and IDC from the bit shifted out. -/
def Obligations.RotatesMoveOneBit : Prop :=
  ∀ (r : Reg) (s : State),
    let b := (s.reg r).toNat
    let c := if pslC s.psl then 1 else 0
    let left : Byte := BitVec.ofNat 8 (2 * b + (if pslWc s.psl then c else b / 128))
    let right : Byte := BitVec.ofNat 8 (b / 2 + 128 * (if pslWc s.psl then c else b % 2))
    let flags := fun (v : Byte) (out : Bool) (p : Byte) =>
      pslCc p = cc8 v ∧ pslC p = (if pslWc s.psl then out else pslC s.psl) ∧
        pslIdc p = (if pslWc s.psl then out else pslIdc s.psl)
    WritesReg (exec (.rrl r) s) s ⟨s, 0, r, []⟩ left rotateMask (flags left (decide (128 ≤ b))) ∧
      WritesReg (exec (.rrr r) s) s ⟨s, 0, r, []⟩ right rotateMask (flags right (decide (b % 2 = 1)))

/-! ### Status registers -/

/-- R150, R151: SPSU and SPSL copy a status byte to R0 and set CC from the byte copied; SPSL copies PSL as it was, and
bits 4:3 of PSU read 0. -/
def Obligations.StoreStatusCopiesToR0 : Prop :=
  ∀ s : State,
    WritesReg (exec .spsu s) s ⟨s, s.psu &&& 0xE7, .r0, []⟩ (s.psu &&& 0xE7) ccMask
      (fun p => pslCc p = cc8 (s.psu &&& 0xE7)) ∧
    WritesReg (exec .spsl s) s ⟨s, s.psl, .r0, []⟩ s.psl ccMask (fun p => pslCc p = cc8 s.psl)

/-- R152, R154, R156, R161: LPSU, CPSU and PPSU write every implemented bit of PSU, the sense bit included; the stack
entries do not move. -/
def Obligations.UpperStatusWrites : Prop :=
  ∀ (m : Byte) (s : State),
    WritesPsu (exec .lpsu s) s s s.r0 ∧
    WritesPsu (exec (.cpsu m) s) s s.nextArg (s.psu &&& ~~~m) ∧
    WritesPsu (exec (.ppsu m) s) s s.nextArg (s.psu ||| m)

/-- R153, R155, R157, R162: LPSL, CPSL and PPSL write all eight bits of PSL and select the bank by the new RS. -/
def Obligations.LowerStatusWrites : Prop :=
  ∀ (m : Byte) (s : State),
    WritesPsl (exec .lpsl s) s s s.r0 ∧
    WritesPsl (exec (.cpsl m) s) s s.nextArg (s.psl &&& ~~~m) ∧
    WritesPsl (exec (.ppsl m) s) s s.nextArg (s.psl ||| m)

/-- R13, R162: in the source's storage view (the active bank in registers 1 to 3, the inactive one in 4 to 6), the two
triples are exchanged by LPSL, CPSL and PPSL exactly when RS changes. -/
def Obligations.BankSwapHappensExactlyWhenRsChanges : Prop :=
  ∀ (i : Instr) (s : State), writesPsl i = true →
    ∃ t, exec i s = .next t ∧ t.r0 = s.r0 ∧
      (if pslRs t.psl = pslRs s.psl then t.activeBank = s.activeBank ∧ t.inactiveBank = s.inactiveBank
        else t.activeBank = s.inactiveBank ∧ t.inactiveBank = s.activeBank)

/-- R13, R162: no other instruction changes RS or reaches the inactive bank. -/
def Obligations.NoOtherInstructionSwapsBanks : Prop :=
  ∀ (i : Instr) (s : State), writesPsl i = false →
    ∃ t, exec i s = .next t ∧ pslRs t.psl = pslRs s.psl ∧ t.inactiveBank = s.inactiveBank

/-- R14: toggling RS twice in succession restores the registers that every number names and both banks. -/
def Obligations.TogglingTheBankTwiceRestoresRegisters : Prop :=
  ∀ s t u : State,
    (pslRs s.psl = false → exec (.ppsl 0x10) s = .next t → exec (.cpsl 0x10) t = .next u →
      (∀ q, u.reg q = s.reg q) ∧ u.bank0 = s.bank0 ∧ u.bank1 = s.bank1 ∧ u.psl = s.psl) ∧
    (pslRs s.psl = true → exec (.cpsl 0x10) s = .next t → exec (.ppsl 0x10) t = .next u →
      (∀ q, u.reg q = s.reg q) ∧ u.bank0 = s.bank0 ∧ u.bank1 = s.bank1 ∧ u.psl = s.psl)

/-- R158 to R160: the tests under mask write CC alone: 00 if every selected bit is 1, else 10. -/
def Obligations.TestsUnderMaskWriteCcAlone : Prop :=
  ∀ (r : Reg) (m : Byte) (s : State),
    let allOnes := fun (v p : Byte) =>
      pslCc p = if ∀ n : Fin 8, m.getLsbD n.val = true → v.getLsbD n.val = true then 0 else 2
    WritesReg (exec (.tpsu m) s) s (formI s .r0 m) s.r0 ccMask (allOnes (s.psu &&& 0xE7)) ∧
    WritesReg (exec (.tpsl m) s) s (formI s .r0 m) s.r0 ccMask (allOnes s.psl) ∧
    WritesReg (exec (.tmi r m) s) s (formI s r m) (s.reg r) ccMask (allOnes (s.reg r))

/-! ### Branches -/

/-- R165 to R170: the conditional branches, taken or stepped over. -/
def Obligations.ConditionalBranches : Prop :=
  ∀ (v : Cond) (a : RelArg) (b : BraArg) (s : State),
    Branches (exec (.bctr v a) s) s [] (decide (v = .always ∨ pslCc s.psl = v.bits)) (s.relEa a) 1 (fun _ => True) ∧
    Branches (exec (.bcta v b) s) s [] (decide (v = .always ∨ pslCc s.psl = v.bits)) (s.braEa b) 2 (fun _ => True) ∧
    Branches (exec (.bcfr v a) s) s [] (decide (pslCc s.psl ≠ v.bits)) (s.relEa a) 1 (fun _ => True) ∧
    Branches (exec (.bcfa v b) s) s [] (decide (pslCc s.psl ≠ v.bits)) (s.braEa b) 2 (fun _ => True)

/-- R171, R172: the unconditional zero-page and indexed branches; register 3 is not changed. -/
def Obligations.ZeroPageAndIndexedBranches : Prop :=
  ∀ (a : RelArg) (b : BraArg) (s : State),
    Branches (exec (.zbrr a) s) s [] true (s.zeroEa a) 1 (fun _ => True) ∧
    Branches (exec (.bxa b) s) s [] true (s.braIndexedEa b) 2 (fun _ => True)

/-- R173, R174, R190: BRNR and BRNA test the register as it stands and do not change it. -/
def Obligations.RegisterBranchesTestTheUnchangedValue : Prop :=
  ∀ (r : Reg) (a : RelArg) (b : BraArg) (s : State),
    Branches (exec (.brnr r a) s) s [] (decide (s.reg r ≠ 0)) (s.relEa a) 1 (fun _ => True) ∧
    Branches (exec (.brna r b) s) s [] (decide (s.reg r ≠ 0)) (s.braEa b) 2 (fun _ => True)

/-- R175 to R178, R190: BIRR, BIRA, BDRR and BDRA step the register modulo 256 whether or not they branch, test the new
value, and write no flag. -/
def Obligations.CountingBranchesTestTheUpdatedValue : Prop :=
  ∀ (r : Reg) (a : RelArg) (b : BraArg) (s : State),
    Branches (exec (.birr r a) s) s [r] (decide (s.reg r ≠ 0xFF)) (s.relEa a) 1 (fun t => t.reg r = s.reg r + 1) ∧
    Branches (exec (.bira r b) s) s [r] (decide (s.reg r ≠ 0xFF)) (s.braEa b) 2 (fun t => t.reg r = s.reg r + 1) ∧
    Branches (exec (.bdrr r a) s) s [r] (decide (s.reg r ≠ 0x01)) (s.relEa a) 1 (fun t => t.reg r = s.reg r - 1) ∧
    Branches (exec (.bdra r b) s) s [r] (decide (s.reg r ≠ 0x01)) (s.braEa b) 2 (fun t => t.reg r = s.reg r - 1)

/-! ### Calls and returns -/

/-- R166, R179 to R182: the conditional calls push the address of the next sequential instruction when taken, and nothing
when not. -/
def Obligations.ConditionalCalls : Prop :=
  ∀ (v : Cond) (a : RelArg) (b : BraArg) (s : State),
    Calls (exec (.bstr v a) s) s (decide (v = .always ∨ pslCc s.psl = v.bits)) (s.relEa a) 1 ∧
    Calls (exec (.bsta v b) s) s (decide (v = .always ∨ pslCc s.psl = v.bits)) (s.braEa b) 2 ∧
    Calls (exec (.bsfr v a) s) s (decide (pslCc s.psl ≠ v.bits)) (s.relEa a) 1 ∧
    Calls (exec (.bsfa v b) s) s (decide (pslCc s.psl ≠ v.bits)) (s.braEa b) 2

/-- R183 to R186: the zero-page, indexed and register calls. -/
def Obligations.OtherCalls : Prop :=
  ∀ (r : Reg) (a : RelArg) (b : BraArg) (s : State),
    Calls (exec (.zbsr a) s) s true (s.zeroEa a) 1 ∧
    Calls (exec (.bsxa b) s) s true (s.braIndexedEa b) 2 ∧
    Calls (exec (.bsnr r a) s) s (decide (s.reg r ≠ 0)) (s.relEa a) 1 ∧
    Calls (exec (.bsna r b) s) s (decide (s.reg r ≠ 0)) (s.braEa b) 2

/-- R187, R188, R220: a taken return jumps to RAS[SP - 1] and decrements SP modulo 8; RETE clears II as well; not taken,
neither changes anything; the stack entries and every other bit of PSU stay. -/
def Obligations.ReturnsPopTheStack : Prop :=
  ∀ (v : Cond) (s : State),
    let taken := decide (v = .always ∨ pslCc s.psl = v.bits)
    (∃ t, exec (.retc v) s = .next t ∧ CallFrame s t ∧ t.ea = s.ea ∧ t.rsel = s.rsel ∧ t.bus = s.bus ∧ t.ras = s.ras ∧
      (if taken then
        some t.pc = s.ras.toList[(psuSp s.psu - 1).toNat]? ∧ psuSp t.psu = psuSp s.psu - 1 ∧
          t.psu &&& 0xF8 = s.psu &&& 0xF8
      else t = s)) ∧
    (∃ t, exec (.rete v) s = .next t ∧ CallFrame s t ∧ t.ea = s.ea ∧ t.rsel = s.rsel ∧ t.bus = s.bus ∧ t.ras = s.ras ∧
      (if taken then
        some t.pc = s.ras.toList[(psuSp s.psu - 1).toNat]? ∧ psuSp t.psu = psuSp s.psu - 1 ∧ psuIi t.psu = false ∧
          t.psu &&& 0xD8 = s.psu &&& 0xD8
      else t = s))

/-- R27, R28, R189: eight pushes from any stack pointer fill the eight entries in order, from the one that SP names, and
bring SP back; a ninth replaces the entry of the first push and no other; no push changes another bit of PSU. -/
def Obligations.NinthPushOverwritesTheOldest : Prop :=
  ∀ (s : State) (a b : Addr) (seven : List Addr), seven.length = 7 →
    let t := (a :: seven).foldl State.push s
    psuSp t.psu = psuSp s.psu ∧ t.psu &&& 0xF8 = s.psu &&& 0xF8 ∧
      (∀ k, k < 8 → t.ras.toList[((psuSp s.psu).toNat + k) % 8]? = (a :: seven)[k]?) ∧
      (t.push b).ras.toList = t.ras.toList.set (psuSp s.psu).toNat b ∧
      psuSp (t.push b).psu = psuSp s.psu + 1 ∧ (t.push b).psu &&& 0xF8 = s.psu &&& 0xF8

/-! ### Input, output, control -/

/-- R195 to R197, R201: REDC, REDD and REDE read the control port, the data port and an extended port, for every byte the
environment may answer. -/
def Obligations.PortReads : Prop :=
  ∀ (r : Reg) (port : Byte) (s : State),
    ReadsPort (exec (.redc r) s) s s r .control ∧ ReadsPort (exec (.redd r) s) s s r .data ∧
      ReadsPort (exec (.rede r port) s) s s.nextArg r (.extended port)

/-- R198 to R201: WRTC, WRTD and WRTE send the register to the control port, the data port and an extended port, and
write no flag. -/
def Obligations.PortWrites : Prop :=
  ∀ (r : Reg) (port : Byte) (s : State),
    WritesPort (exec (.wrtc r) s) s s .control (s.reg r) ∧ WritesPort (exec (.wrtd r) s) s s .data (s.reg r) ∧
      WritesPort (exec (.wrte r port) s) s s.nextArg (.extended port) (s.reg r)

/-- R203: HALT sets the halted state and rewinds the offset by one, in the page, and changes nothing else; run by a step
it leaves the program counter on its own opcode. -/
def Obligations.HaltStaysOnItsOpcode : Prop :=
  (∀ s : State, exec .halt s = .next { s with halted := true, offset := s.offset - 1 }) ∧
  ∀ s : State, s.arrived = [] → s.halted = false → (s.irq = false ∨ psuIi s.psu = true) →
    s.peek s.pc = 0x40 →
    ∃ t, step s = .next t ∧ t.halted = true ∧ t.pc = s.pc ∧ t.bus = .fetchOp s.pc :: s.bus ∧ Frame [] 0 s
      { t with halted := s.halted, ir := s.ir, ppc := s.ppc, events := s.events }

/-- R204, R205: NOP and ILLEGAL change nothing; the ten illegal opcodes are one byte long and decode to ILLEGAL, so only
the opcode fetch moves the program counter. -/
def Obligations.NopAndIllegalDoNothing : Prop :=
  (∀ (op : Byte) (s : State), exec .nop s = .next s ∧ exec (.illegal op) s = .next s) ∧
  (∀ op b1 b2 : Byte, op ∈ [0x10, 0x11, 0x90, 0x91, 0xB6, 0xB7, 0xC4, 0xC5, 0xC6, 0xC7] →
    decodeBytes op b1 b2 = .illegal op ∧ opcodeLength op = 1)

/-! ### Rules over the whole instruction set -/

/-- R16, R60: every instruction that transfers no control keeps the page and moves the offset, modulo 8192, over the rest
of its own bytes. -/
def Obligations.SequentialInstructionsStayInThePage : Prop :=
  ∀ (i : Instr) (s : State), transfersControl i = false →
    ∃ t, exec i s = .next t ∧ t.page = s.page ∧ t.offset = s.offset + BitVec.ofNat 13 (i.length - 1)

/-- R18, R27, R28: PSU is written only by LPSU, CPSU, PPSU, calls and returns, and the stack entries by none other than
those. -/
def Obligations.OnlyStatusCallsAndReturnsWritePsu : Prop :=
  ∀ (i : Instr) (s : State), writesPsu i = false → ∃ t, exec i s = .next t ∧ t.psu = s.psu ∧ t.ras = s.ras

/-- R26, R213: of all instructions only LPSU from R0[5] = 0, CPSU with mask bit 5 and a taken RETE clear II. -/
def Obligations.OnlyThreeInstructionsEnableInterrupts : Prop :=
  ∀ (i : Instr) (s t : State), psuIi s.psu = true → exec i s = .next t → psuIi t.psu = false →
    (i = .lpsu ∧ s.r0.getLsbD 5 = false) ∨ (∃ m, i = .cpsu m ∧ m.getLsbD 5 = true) ∨
      (∃ v, i = .rete v ∧ condTrue v s.cc = true)

/-- R91, R224, R252, R254: the cycles of a step, whatever the table CYCLES. A step that runs an instruction costs the
table's entry for its opcode, and 2 more when its indirect bit is set and its test, if it has one, passes; of two forms of
one instruction that differ in the indirect bit alone the indirect one costs exactly 2 more, for every form of formats R, A
and B; the interrupt sequence costs 2 if its vector is indirect and else nothing. That a branch or call that is not taken is
charged nothing for its indirect bit is the model's choice, and so is the cost function itself (log 16); an unlisted vector
byte is a free value (log 7). -/
def Obligations.IndirectionCostsTwoCycles : Prop :=
  ∀ (cycles : Byte → Nat) (s : State),
    (s.arrived = [] → s.halted = false → (s.irq = false ∨ psuIi s.psu = true) →
      ∃ t, step s = .next t ∧
        stepCost cycles s t =
          cycles (s.peek s.pc) +
            (if indirectBit s.fetched = some true ∧ passesTest s s.fetched = true then 2 else 0)) ∧
    (∀ i : Instr, (indirectBit i).isSome = true → passesTest s i = true →
      ∃ t u, exec (withIndirect false i) s.afterOpcode = .next t ∧ exec (withIndirect true i) s.afterOpcode = .next u ∧
        stepCost cycles s t = cycles (s.peek s.pc) ∧ stepCost cycles s u = stepCost cycles s t + 2) ∧
    (s.arrived = [] → s.irq = true → psuIi s.psu = false →
      let vec := s.vectors.headD (Config.freeBusByte s.inputs)
      ∃ t, step s = .next t ∧ stepCost cycles s t = if vec.getLsbD 7 then 2 else 0)
end

