-- ==== Sys2Proof/Laws/Addr.lean ====
section
/-!
SUPPORT. Page and offset of an address, as bits and as numbers (Machine/Addr.lean).
-/

namespace Sys2Proof.Machine

@[simp] theorem pageOf_mkAddr (p : BitVec 2) (o : BitVec 13) : pageOf (mkAddr p o) = p :=
  BitVec.extractLsb'_append_eq_left

@[simp] theorem offsetOf_mkAddr (p : BitVec 2) (o : BitVec 13) : offsetOf (mkAddr p o) = o :=
  BitVec.extractLsb'_append_eq_right

/-- An address as a number is page times 8192 plus offset (R15). -/
theorem mkAddr_toNat (p : BitVec 2) (o : BitVec 13) : (mkAddr p o).toNat = p.toNat * 8192 + o.toNat := by
  have h : (mkAddr p o).toNat = p.toNat <<< 13 ||| o.toNat := BitVec.toNat_append p o
  rw [h, ← Nat.shiftLeft_add_eq_or_of_lt o.isLt, Nat.shiftLeft_eq]

theorem pageOf_toNat (a : Addr) : (pageOf a).toNat = a.toNat / 8192 := by
  have := a.isLt
  simp only [pageOf, BitVec.extractLsb'_toNat, Nat.shiftRight_eq_div_pow]
  omega

theorem offsetOf_toNat (a : Addr) : (offsetOf a).toNat = a.toNat % 8192 := by
  simp [offsetOf, BitVec.extractLsb'_toNat]

@[simp] theorem mkAddr_parts (a : Addr) : mkAddr (pageOf a) (offsetOf a) = a := by
  apply BitVec.eq_of_toNat_eq
  rw [mkAddr_toNat, pageOf_toNat, offsetOf_toNat]
  omega

@[simp] theorem pageOf_wrapAdd (a : Addr) (k : BitVec 13) : pageOf (wrapAdd a k) = pageOf a :=
  pageOf_mkAddr _ _

@[simp] theorem offsetOf_wrapAdd (a : Addr) (k : BitVec 13) : offsetOf (wrapAdd a k) = offsetOf a + k :=
  offsetOf_mkAddr _ _

/-- The in-page sum as a number (R88). -/
theorem wrapAdd_toNat (a : Addr) (k : BitVec 13) :
    (wrapAdd a k).toNat = a.toNat / 8192 * 8192 + (a.toNat % 8192 + k.toNat) % 8192 := by
  rw [wrapAdd, mkAddr_toNat, pageOf_toNat, BitVec.toNat_add, offsetOf_toNat]

/-- The pointer's value as a number (R84). -/
theorem pointerValue_toNat (hi lo : Byte) : (pointerValue hi lo).toNat = (hi.toNat * 256 + lo.toNat) % 32768 := by
  have h : (hi ++ lo).toNat = hi.toNat <<< 8 ||| lo.toNat := BitVec.toNat_append hi lo
  rw [pointerValue, BitVec.toNat_setWidth, h, ← Nat.shiftLeft_add_eq_or_of_lt lo.isLt, Nat.shiftLeft_eq]

end Sys2Proof.Machine
end

