-- ==== Sys2Proof/Laws/Encoding.lean ====
section
/-!
SUPPORT. Each field of an encoding is read back as it was written (Decode.lean).
-/

namespace Sys2Proof

@[simp] theorem Reg.ofBits_bits (r : Reg) : Reg.ofBits r.bits = r := by
  cases r <;> rfl

@[simp] theorem Cond.ofBits_bits (v : Cond) : Cond.ofBits v.bits = v := by
  cases v <;> rfl

@[simp] theorem IndexMode.ofBits_bits (m : IndexMode) : IndexMode.ofBits m.bits = m := by
  cases m <;> rfl

/-- The two parts of an address put together again. -/
theorem extract_append_extract (n : Nat) (x : BitVec (n + 8)) : x.extractLsb' 8 n ++ x.extractLsb' 0 8 = x := by
  apply BitVec.eq_of_getLsbD_eq
  intro i hi
  rw [BitVec.getLsbD_append]
  by_cases h : i < 8
  · simp [h]
  · have e : 8 + (i - 8) = i := by omega
    have g : i - 8 < n := by omega
    simp [h, e, g]

/-- The argument byte of format R (R66). -/
@[simp] theorem RelArg.ofByte_byte (a : RelArg) : RelArg.ofByte a.byte = a := by
  obtain ⟨ind, disp⟩ := a
  cases ind <;> (revert disp; decide +kernel)

/-- The argument bytes of format B (R68). -/
@[simp] theorem BraArg.ofBytes_bytes (a : BraArg) : BraArg.ofBytes a.hi a.lo = a := by
  obtain ⟨ind, addr⟩ := a
  simp only [BraArg.ofBytes, BraArg.hi, BraArg.lo, BraArg.mk.injEq]
  refine ⟨?_, ?_⟩
  · have h : ∀ (i : Bool) (x : BitVec 7), (BitVec.ofBool i ++ x).getLsbD 7 = i := by decide +kernel
    exact h ind _
  · rw [BitVec.extractLsb'_append_eq_right]
    exact extract_append_extract 7 addr

/-- The argument bytes of format A (R67). -/
@[simp] theorem AbsArg.ofBytes_bytes (a : AbsArg) : AbsArg.ofBytes a.hi a.lo = a := by
  obtain ⟨ind, idx, addr⟩ := a
  simp only [AbsArg.ofBytes, AbsArg.hi, AbsArg.lo, AbsArg.mk.injEq]
  refine ⟨?_, ?_, ?_⟩
  · have h : ∀ (i : Bool) (m : BitVec 2) (x : BitVec 5), (BitVec.ofBool i ++ m ++ x).getLsbD 7 = i := by decide +kernel
    exact h ind _ _
  · have h : ∀ (i : Bool) (m : BitVec 2) (x : BitVec 5), (BitVec.ofBool i ++ m ++ x).extractLsb' 5 2 = m := by
      decide +kernel
    rw [h, IndexMode.ofBits_bits]
  · rw [BitVec.extractLsb'_append_eq_right]
    exact extract_append_extract 5 addr

end Sys2Proof
end

