-- ==== Sys2Proof/Laws/Flags.lean ====
section
/-!
SUPPORT. The fields of the two status registers after each status update (Machine/Flags.lean).
-/

namespace Sys2Proof.Machine

/-! ### Condition code of PSL -/

@[simp] theorem pslCc_withCc (p : Byte) (c : BitVec 2) : pslCc (withCc p c) = c := by
  revert p c; decide +kernel

@[simp] theorem pslC_withCc (p : Byte) (c : BitVec 2) : pslC (withCc p c) = pslC p := by
  revert p c; decide +kernel

@[simp] theorem pslCom_withCc (p : Byte) (c : BitVec 2) : pslCom (withCc p c) = pslCom p := by
  revert p c; decide +kernel

@[simp] theorem pslOvf_withCc (p : Byte) (c : BitVec 2) : pslOvf (withCc p c) = pslOvf p := by
  revert p c; decide +kernel

@[simp] theorem pslWc_withCc (p : Byte) (c : BitVec 2) : pslWc (withCc p c) = pslWc p := by
  revert p c; decide +kernel

@[simp] theorem pslRs_withCc (p : Byte) (c : BitVec 2) : pslRs (withCc p c) = pslRs p := by
  revert p c; decide +kernel

@[simp] theorem pslIdc_withCc (p : Byte) (c : BitVec 2) : pslIdc (withCc p c) = pslIdc p := by
  revert p c; decide +kernel

/-- Writing CC keeps bits 5:0 (R20). -/
theorem withCc_and_low (p : Byte) (c : BitVec 2) : withCc p c &&& 0x3F = p &&& 0x3F := by
  revert p c; decide +kernel

/-! ### Fields of PSU -/

@[simp] theorem psuSp_withSp (u : Byte) (sp : BitVec 3) : psuSp (withSp u sp) = sp := by
  revert u sp; decide +kernel

@[simp] theorem psuIi_withSp (u : Byte) (sp : BitVec 3) : psuIi (withSp u sp) = psuIi u := by
  revert u sp; decide +kernel

@[simp] theorem psuSp_withIi (u : Byte) (b : Bool) : psuSp (withIi u b) = psuSp u := by
  revert u b; decide +kernel

@[simp] theorem psuIi_withIi (u : Byte) (b : Bool) : psuIi (withIi u b) = b := by
  revert u b; decide +kernel

@[simp] theorem psuSense_withSense (u : Byte) (b : Bool) : psuSense (withSense u b) = b := by
  revert u b; decide +kernel

@[simp] theorem withSp_psuSp (u : Byte) : withSp u (psuSp u) = u := by
  revert u; decide +kernel

@[simp] theorem withSp_withSp (u : Byte) (a b : BitVec 3) : withSp (withSp u a) b = withSp u b := by
  revert u a b; decide +kernel

theorem withIi_withSp (u : Byte) (sp : BitVec 3) (b : Bool) :
    withIi (withSp u sp) b = withSp (withIi u b) sp := by
  revert u sp b; decide +kernel

@[simp] theorem withIi_withIi (u : Byte) (a b : Bool) : withIi (withIi u a) b = withIi u b := by
  revert u a b; decide +kernel

/-- No single-field update of PSU writes the unimplemented bits 4:3 (R18). -/
theorem withSp_unimplemented (u : Byte) (sp : BitVec 3) : withSp u sp &&& 0x18 = u &&& 0x18 := by
  revert u sp; decide +kernel

theorem withIi_unimplemented (u : Byte) (b : Bool) : withIi u b &&& 0x18 = u &&& 0x18 := by
  revert u b; decide +kernel

theorem withSense_unimplemented (u : Byte) (b : Bool) : withSense u b &&& 0x18 = u &&& 0x18 := by
  revert u b; decide +kernel

theorem psuMask_unimplemented (v : Byte) : v &&& psuMask &&& 0x18 = 0 := by
  revert v; decide +kernel

/-! ### Arithmetic and rotate status -/

/-- What an add or a subtract writes: C, IDC, OVF and CC, and nothing else (R125, R130). -/
theorem arithPsl_fields (p : Byte) (c idc ovf : Bool) (result : Byte) :
    pslC (arithPsl p c idc ovf result) = c ∧ pslIdc (arithPsl p c idc ovf result) = idc ∧
      pslOvf (arithPsl p c idc ovf result) = ovf ∧ pslCc (arithPsl p c idc ovf result) = cc8 result ∧
      arithPsl p c idc ovf result &&& 0x1A = p &&& 0x1A := by
  unfold arithPsl
  generalize cc8 result = k
  revert p c idc ovf k
  decide +kernel

@[simp] theorem pslRs_arithPsl (p : Byte) (c idc ovf : Bool) (result : Byte) :
    pslRs (arithPsl p c idc ovf result) = pslRs p := by
  unfold arithPsl
  generalize cc8 result = k
  revert p c idc ovf k
  decide +kernel

/-- What a rotate writes: CC always, C and IDC when WC = 1 (R145). -/
theorem rotatePsl_fields (p : Byte) (out : Bool) (result : Byte) :
    pslCc (rotatePsl p out result) = cc8 result ∧
      pslC (rotatePsl p out result) = (if pslWc p then out else pslC p) ∧
      pslIdc (rotatePsl p out result) = (if pslWc p then out else pslIdc p) ∧
      rotatePsl p out result &&& 0x1E = p &&& 0x1E := by
  unfold rotatePsl
  generalize cc8 result = k
  revert p out k
  decide +kernel

@[simp] theorem pslRs_rotatePsl (p : Byte) (out : Bool) (result : Byte) :
    pslRs (rotatePsl p out result) = pslRs p := by
  unfold rotatePsl
  generalize cc8 result = k
  revert p out k
  decide +kernel

/-- The condition code is never 11 (R19). -/
theorem cc8_cases (v : Byte) : cc8 v = 0 ∨ cc8 v = 1 ∨ cc8 v = 2 := by
  unfold cc8; split <;> [skip; split] <;> simp

end Sys2Proof.Machine
end

