-- ==== Sys2Proof/Laws/Memory.lean ====
section
/-!
SUPPORT. The memory laws: what a read after a write answers, and that every operation keeps the canonical form
(Machine/Memory.lean).
-/

namespace Sys2Proof.Machine

/-- A write leaves every other address as it was. -/
theorem Memory.read_write_ne (m : Memory) {a c : Nat} (v : Byte) (h : c ≠ a) :
    Memory.read (Memory.write m a v) c = Memory.read m c := by
  induction m with
  | nil =>
    unfold Memory.write
    split
    · rfl
    · simp [Memory.read, h.symm]
  | cons x rest ih =>
    obtain ⟨b, w⟩ := x
    unfold Memory.write
    by_cases h1 : a < b
    · by_cases h2 : v = Memory.unlisted
      · simp [h1, h2]
      · simp [h1, h2, Memory.read, h.symm]
    · by_cases h3 : a = b
      · subst h3
        by_cases h2 : v = Memory.unlisted
        · simp [h2, Memory.read, h.symm]
        · simp [h2, Memory.read, h.symm]
      · simp [h1, h3, Memory.read, ih]

/-- Below the bound of the canonical form nothing is listed. -/
theorem Memory.read_below (m : Memory) {lo a : Nat} (hw : Memory.wfFrom lo m = true) (h : a < lo) :
    Memory.read m a = Memory.unlisted := by
  induction m generalizing lo with
  | nil => rfl
  | cons x rest ih =>
    obtain ⟨b, w⟩ := x
    simp only [Memory.wfFrom, Bool.and_eq_true, decide_eq_true_eq] at hw
    obtain ⟨⟨⟨hlo, _⟩, _⟩, hrest⟩ := hw
    have hne : b ≠ a := by omega
    simp only [Memory.read, hne, if_false]
    exact ih hrest (by omega)

theorem Memory.read_write_eq_from (m : Memory) {lo : Nat} (a : Nat) (v : Byte) (hw : Memory.wfFrom lo m = true) :
    Memory.read (Memory.write m a v) a = v := by
  induction m generalizing lo with
  | nil =>
    unfold Memory.write
    split
    · next h => simp [Memory.read, h]
    · simp [Memory.read]
  | cons x rest ih =>
    obtain ⟨b, w⟩ := x
    have hall := hw
    simp only [Memory.wfFrom, Bool.and_eq_true, decide_eq_true_eq] at hw
    obtain ⟨⟨⟨_, _⟩, _⟩, hrest⟩ := hw
    unfold Memory.write
    by_cases h1 : a < b
    · by_cases h2 : v = Memory.unlisted
      · have hne : b ≠ a := by omega
        simp only [h1, h2, if_true, Memory.read, hne, if_false]
        exact Memory.read_below rest hrest (by omega)
      · simp [h1, h2, Memory.read]
    · by_cases h3 : a = b
      · subst h3
        by_cases h2 : v = Memory.unlisted
        · simp only [Nat.lt_irrefl, h2, if_true, if_false]
          exact Memory.read_below rest hrest (by omega)
        · simp [h2, Memory.read]
      · have hne : b ≠ a := fun e => h3 e.symm
        simp only [h1, h3, if_false, Memory.read, hne]
        exact ih hrest

/-- A read answers what was last written, in a canonical memory. -/
theorem Memory.read_write_eq (m : Memory) (a : Nat) (v : Byte) (hw : m.wf = true) :
    Memory.read (Memory.write m a v) a = v :=
  Memory.read_write_eq_from m a v hw

theorem Memory.wfFrom_mono (m : Memory) {lo lo' : Nat} (h : lo' ≤ lo) (hw : Memory.wfFrom lo m = true) :
    Memory.wfFrom lo' m = true := by
  cases m with
  | nil => rfl
  | cons x rest =>
    obtain ⟨b, w⟩ := x
    simp only [Memory.wfFrom, Bool.and_eq_true, decide_eq_true_eq] at hw ⊢
    obtain ⟨⟨⟨h1, h2⟩, h3⟩, h4⟩ := hw
    exact ⟨⟨⟨by omega, h2⟩, h3⟩, h4⟩

theorem Memory.write_wfFrom (m : Memory) {lo a : Nat} (v : Byte) (hw : Memory.wfFrom lo m = true) (hlo : lo ≤ a)
    (ha : a < Memory.size) : Memory.wfFrom lo (Memory.write m a v) = true := by
  induction m generalizing lo with
  | nil =>
    unfold Memory.write
    split
    · rfl
    · next h => simp [Memory.wfFrom, h, hlo, ha]
  | cons x rest ih =>
    obtain ⟨b, w⟩ := x
    have hall := hw
    simp only [Memory.wfFrom, Bool.and_eq_true, decide_eq_true_eq] at hw
    obtain ⟨⟨⟨h1, h2⟩, h3⟩, h4⟩ := hw
    unfold Memory.write
    by_cases g1 : a < b
    · by_cases g2 : v = Memory.unlisted
      · simpa [g1, g2] using hall
      · simp only [g1, g2, if_true, if_false, Memory.wfFrom, Bool.and_eq_true, decide_eq_true_eq]
        exact ⟨⟨⟨hlo, ha⟩, by simpa using g2⟩, ⟨⟨⟨by omega, h2⟩, h3⟩, h4⟩⟩
    · by_cases g3 : a = b
      · subst g3
        by_cases g2 : v = Memory.unlisted
        · simp only [Nat.lt_irrefl, g2, if_true, if_false]
          exact Memory.wfFrom_mono rest (by omega) h4
        · simp only [Nat.lt_irrefl, g2, if_true, if_false, Memory.wfFrom, Bool.and_eq_true, decide_eq_true_eq]
          exact ⟨⟨⟨hlo, ha⟩, by simpa using g2⟩, h4⟩
      · simp only [g1, g3, if_false, Memory.wfFrom, Bool.and_eq_true, decide_eq_true_eq]
        exact ⟨⟨⟨h1, h2⟩, h3⟩, ih h4 (by omega)⟩

/-- A write inside the address space keeps the canonical form. -/
theorem Memory.write_wf (m : Memory) {a : Nat} (v : Byte) (hw : m.wf = true) (ha : a < Memory.size) :
    (m.write a v).wf = true :=
  Memory.write_wfFrom m v hw (Nat.zero_le a) ha

/-- Two canonical memories that answer every read alike are equal: equal memories are equal data. -/
theorem Memory.ext_from (m n : Memory) {lo : Nat} (hm : Memory.wfFrom lo m = true) (hn : Memory.wfFrom lo n = true)
    (h : ∀ a, Memory.read m a = Memory.read n a) : m = n := by
  induction m generalizing n lo with
  | nil =>
    cases n with
    | nil => rfl
    | cons y ys =>
      obtain ⟨b, w⟩ := y
      simp only [Memory.wfFrom, Bool.and_eq_true, bne_iff_ne] at hn
      have := h b
      simp only [Memory.read, if_true] at this
      exact absurd this.symm hn.1.2
  | cons x xs ih =>
    obtain ⟨b, w⟩ := x
    have hm0 := hm
    simp only [Memory.wfFrom, Bool.and_eq_true, bne_iff_ne, decide_eq_true_eq] at hm
    obtain ⟨⟨⟨hb, _⟩, hw⟩, hxs⟩ := hm
    cases n with
    | nil =>
      have := h b
      simp only [Memory.read, if_true] at this
      exact absurd this hw
    | cons y ys =>
      obtain ⟨c, u⟩ := y
      have hn0 := hn
      simp only [Memory.wfFrom, Bool.and_eq_true, bne_iff_ne, decide_eq_true_eq] at hn
      obtain ⟨⟨⟨hc, _⟩, hu⟩, hys⟩ := hn
      have hbc : b = c := by
        rcases Nat.lt_trichotomy b c with hlt | heq | hgt
        · have h1 := h b
          have hne : c ≠ b := by omega
          simp only [Memory.read, if_true, hne, if_false] at h1
          rw [Memory.read_below ys hys (by omega)] at h1
          exact absurd h1 hw
        · exact heq
        · have h1 := h c
          have hne : b ≠ c := by omega
          simp only [Memory.read, if_true, hne, if_false] at h1
          rw [Memory.read_below xs hxs (by omega)] at h1
          exact absurd h1.symm hu
      subst hbc
      have hwu : w = u := by simpa [Memory.read] using h b
      subst hwu
      congr 1
      refine ih ys hxs hys fun a => ?_
      by_cases hab : b = a
      · subst hab
        rw [Memory.read_below xs hxs (by omega), Memory.read_below ys hys (by omega)]
      · simpa [Memory.read, hab] using h a

end Sys2Proof.Machine
end

