-- ==== Sys2Proof/Laws/State.lean ====
section
/-!
SUPPORT. One lemma per field per update of State, so that no later proof unfolds a record update.
-/

namespace Sys2Proof.Machine

/-! ### setCc -/

@[simp] theorem State.setCc_r0 (s : State) (c : BitVec 2) : (s.setCc c).r0 = s.r0 := rfl
@[simp] theorem State.setCc_bank0 (s : State) (c : BitVec 2) : (s.setCc c).bank0 = s.bank0 := rfl
@[simp] theorem State.setCc_bank1 (s : State) (c : BitVec 2) : (s.setCc c).bank1 = s.bank1 := rfl
@[simp] theorem State.setCc_psl (s : State) (c : BitVec 2) : (s.setCc c).psl = withCc s.psl c := rfl
@[simp] theorem State.setCc_psu (s : State) (c : BitVec 2) : (s.setCc c).psu = s.psu := rfl
@[simp] theorem State.setCc_page (s : State) (c : BitVec 2) : (s.setCc c).page = s.page := rfl
@[simp] theorem State.setCc_offset (s : State) (c : BitVec 2) : (s.setCc c).offset = s.offset := rfl
@[simp] theorem State.setCc_ras (s : State) (c : BitVec 2) : (s.setCc c).ras = s.ras := rfl
@[simp] theorem State.setCc_halted (s : State) (c : BitVec 2) : (s.setCc c).halted = s.halted := rfl
@[simp] theorem State.setCc_irq (s : State) (c : BitVec 2) : (s.setCc c).irq = s.irq := rfl
@[simp] theorem State.setCc_ir (s : State) (c : BitVec 2) : (s.setCc c).ir = s.ir := rfl
@[simp] theorem State.setCc_ea (s : State) (c : BitVec 2) : (s.setCc c).ea = s.ea := rfl
@[simp] theorem State.setCc_rsel (s : State) (c : BitVec 2) : (s.setCc c).rsel = s.rsel := rfl
@[simp] theorem State.setCc_ppc (s : State) (c : BitVec 2) : (s.setCc c).ppc = s.ppc := rfl
@[simp] theorem State.setCc_mem (s : State) (c : BitVec 2) : (s.setCc c).mem = s.mem := rfl
@[simp] theorem State.setCc_params (s : State) (c : BitVec 2) : (s.setCc c).params = s.params := rfl
@[simp] theorem State.setCc_events (s : State) (c : BitVec 2) : (s.setCc c).events = s.events := rfl
@[simp] theorem State.setCc_vectors (s : State) (c : BitVec 2) : (s.setCc c).vectors = s.vectors := rfl
@[simp] theorem State.setCc_portIn (s : State) (c : BitVec 2) : (s.setCc c).portIn = s.portIn := rfl
@[simp] theorem State.setCc_inputs (s : State) (c : BitVec 2) : (s.setCc c).inputs = s.inputs := rfl
@[simp] theorem State.setCc_bus (s : State) (c : BitVec 2) : (s.setCc c).bus = s.bus := rfl

/-! ### setPsl -/

@[simp] theorem State.setPsl_r0 (s : State) (v : Byte) : (s.setPsl v).r0 = s.r0 := rfl
@[simp] theorem State.setPsl_bank0 (s : State) (v : Byte) : (s.setPsl v).bank0 = s.bank0 := rfl
@[simp] theorem State.setPsl_bank1 (s : State) (v : Byte) : (s.setPsl v).bank1 = s.bank1 := rfl
@[simp] theorem State.setPsl_psl (s : State) (v : Byte) : (s.setPsl v).psl = v := rfl
@[simp] theorem State.setPsl_psu (s : State) (v : Byte) : (s.setPsl v).psu = s.psu := rfl
@[simp] theorem State.setPsl_page (s : State) (v : Byte) : (s.setPsl v).page = s.page := rfl
@[simp] theorem State.setPsl_offset (s : State) (v : Byte) : (s.setPsl v).offset = s.offset := rfl
@[simp] theorem State.setPsl_ras (s : State) (v : Byte) : (s.setPsl v).ras = s.ras := rfl
@[simp] theorem State.setPsl_halted (s : State) (v : Byte) : (s.setPsl v).halted = s.halted := rfl
@[simp] theorem State.setPsl_irq (s : State) (v : Byte) : (s.setPsl v).irq = s.irq := rfl
@[simp] theorem State.setPsl_ir (s : State) (v : Byte) : (s.setPsl v).ir = s.ir := rfl
@[simp] theorem State.setPsl_ea (s : State) (v : Byte) : (s.setPsl v).ea = s.ea := rfl
@[simp] theorem State.setPsl_rsel (s : State) (v : Byte) : (s.setPsl v).rsel = s.rsel := rfl
@[simp] theorem State.setPsl_ppc (s : State) (v : Byte) : (s.setPsl v).ppc = s.ppc := rfl
@[simp] theorem State.setPsl_mem (s : State) (v : Byte) : (s.setPsl v).mem = s.mem := rfl
@[simp] theorem State.setPsl_params (s : State) (v : Byte) : (s.setPsl v).params = s.params := rfl
@[simp] theorem State.setPsl_events (s : State) (v : Byte) : (s.setPsl v).events = s.events := rfl
@[simp] theorem State.setPsl_vectors (s : State) (v : Byte) : (s.setPsl v).vectors = s.vectors := rfl
@[simp] theorem State.setPsl_portIn (s : State) (v : Byte) : (s.setPsl v).portIn = s.portIn := rfl
@[simp] theorem State.setPsl_inputs (s : State) (v : Byte) : (s.setPsl v).inputs = s.inputs := rfl
@[simp] theorem State.setPsl_bus (s : State) (v : Byte) : (s.setPsl v).bus = s.bus := rfl

/-! ### psuWrite -/

@[simp] theorem State.psuWrite_r0 (s : State) (v : Byte) : (s.psuWrite v).r0 = s.r0 := rfl
@[simp] theorem State.psuWrite_bank0 (s : State) (v : Byte) : (s.psuWrite v).bank0 = s.bank0 := rfl
@[simp] theorem State.psuWrite_bank1 (s : State) (v : Byte) : (s.psuWrite v).bank1 = s.bank1 := rfl
@[simp] theorem State.psuWrite_psl (s : State) (v : Byte) : (s.psuWrite v).psl = s.psl := rfl
@[simp] theorem State.psuWrite_psu (s : State) (v : Byte) : (s.psuWrite v).psu = v &&& psuMask := rfl
@[simp] theorem State.psuWrite_page (s : State) (v : Byte) : (s.psuWrite v).page = s.page := rfl
@[simp] theorem State.psuWrite_offset (s : State) (v : Byte) : (s.psuWrite v).offset = s.offset := rfl
@[simp] theorem State.psuWrite_ras (s : State) (v : Byte) : (s.psuWrite v).ras = s.ras := rfl
@[simp] theorem State.psuWrite_halted (s : State) (v : Byte) : (s.psuWrite v).halted = s.halted := rfl
@[simp] theorem State.psuWrite_irq (s : State) (v : Byte) : (s.psuWrite v).irq = s.irq := rfl
@[simp] theorem State.psuWrite_ir (s : State) (v : Byte) : (s.psuWrite v).ir = s.ir := rfl
@[simp] theorem State.psuWrite_ea (s : State) (v : Byte) : (s.psuWrite v).ea = s.ea := rfl
@[simp] theorem State.psuWrite_rsel (s : State) (v : Byte) : (s.psuWrite v).rsel = s.rsel := rfl
@[simp] theorem State.psuWrite_ppc (s : State) (v : Byte) : (s.psuWrite v).ppc = s.ppc := rfl
@[simp] theorem State.psuWrite_mem (s : State) (v : Byte) : (s.psuWrite v).mem = s.mem := rfl
@[simp] theorem State.psuWrite_params (s : State) (v : Byte) : (s.psuWrite v).params = s.params := rfl
@[simp] theorem State.psuWrite_events (s : State) (v : Byte) : (s.psuWrite v).events = s.events := rfl
@[simp] theorem State.psuWrite_vectors (s : State) (v : Byte) : (s.psuWrite v).vectors = s.vectors := rfl
@[simp] theorem State.psuWrite_portIn (s : State) (v : Byte) : (s.psuWrite v).portIn = s.portIn := rfl
@[simp] theorem State.psuWrite_inputs (s : State) (v : Byte) : (s.psuWrite v).inputs = s.inputs := rfl
@[simp] theorem State.psuWrite_bus (s : State) (v : Byte) : (s.psuWrite v).bus = s.bus := rfl

/-! ### setIi -/

@[simp] theorem State.setIi_r0 (s : State) (b : Bool) : (s.setIi b).r0 = s.r0 := rfl
@[simp] theorem State.setIi_bank0 (s : State) (b : Bool) : (s.setIi b).bank0 = s.bank0 := rfl
@[simp] theorem State.setIi_bank1 (s : State) (b : Bool) : (s.setIi b).bank1 = s.bank1 := rfl
@[simp] theorem State.setIi_psl (s : State) (b : Bool) : (s.setIi b).psl = s.psl := rfl
@[simp] theorem State.setIi_psu (s : State) (b : Bool) : (s.setIi b).psu = withIi s.psu b := rfl
@[simp] theorem State.setIi_page (s : State) (b : Bool) : (s.setIi b).page = s.page := rfl
@[simp] theorem State.setIi_offset (s : State) (b : Bool) : (s.setIi b).offset = s.offset := rfl
@[simp] theorem State.setIi_ras (s : State) (b : Bool) : (s.setIi b).ras = s.ras := rfl
@[simp] theorem State.setIi_halted (s : State) (b : Bool) : (s.setIi b).halted = s.halted := rfl
@[simp] theorem State.setIi_irq (s : State) (b : Bool) : (s.setIi b).irq = s.irq := rfl
@[simp] theorem State.setIi_ir (s : State) (b : Bool) : (s.setIi b).ir = s.ir := rfl
@[simp] theorem State.setIi_ea (s : State) (b : Bool) : (s.setIi b).ea = s.ea := rfl
@[simp] theorem State.setIi_rsel (s : State) (b : Bool) : (s.setIi b).rsel = s.rsel := rfl
@[simp] theorem State.setIi_ppc (s : State) (b : Bool) : (s.setIi b).ppc = s.ppc := rfl
@[simp] theorem State.setIi_mem (s : State) (b : Bool) : (s.setIi b).mem = s.mem := rfl
@[simp] theorem State.setIi_params (s : State) (b : Bool) : (s.setIi b).params = s.params := rfl
@[simp] theorem State.setIi_events (s : State) (b : Bool) : (s.setIi b).events = s.events := rfl
@[simp] theorem State.setIi_vectors (s : State) (b : Bool) : (s.setIi b).vectors = s.vectors := rfl
@[simp] theorem State.setIi_portIn (s : State) (b : Bool) : (s.setIi b).portIn = s.portIn := rfl
@[simp] theorem State.setIi_inputs (s : State) (b : Bool) : (s.setIi b).inputs = s.inputs := rfl
@[simp] theorem State.setIi_bus (s : State) (b : Bool) : (s.setIi b).bus = s.bus := rfl

/-! ### setPc -/

@[simp] theorem State.setPc_r0 (s : State) (a : Addr) : (s.setPc a).r0 = s.r0 := rfl
@[simp] theorem State.setPc_bank0 (s : State) (a : Addr) : (s.setPc a).bank0 = s.bank0 := rfl
@[simp] theorem State.setPc_bank1 (s : State) (a : Addr) : (s.setPc a).bank1 = s.bank1 := rfl
@[simp] theorem State.setPc_psl (s : State) (a : Addr) : (s.setPc a).psl = s.psl := rfl
@[simp] theorem State.setPc_psu (s : State) (a : Addr) : (s.setPc a).psu = s.psu := rfl
@[simp] theorem State.setPc_page (s : State) (a : Addr) : (s.setPc a).page = pageOf a := rfl
@[simp] theorem State.setPc_offset (s : State) (a : Addr) : (s.setPc a).offset = offsetOf a := rfl
@[simp] theorem State.setPc_ras (s : State) (a : Addr) : (s.setPc a).ras = s.ras := rfl
@[simp] theorem State.setPc_halted (s : State) (a : Addr) : (s.setPc a).halted = s.halted := rfl
@[simp] theorem State.setPc_irq (s : State) (a : Addr) : (s.setPc a).irq = s.irq := rfl
@[simp] theorem State.setPc_ir (s : State) (a : Addr) : (s.setPc a).ir = s.ir := rfl
@[simp] theorem State.setPc_ea (s : State) (a : Addr) : (s.setPc a).ea = s.ea := rfl
@[simp] theorem State.setPc_rsel (s : State) (a : Addr) : (s.setPc a).rsel = s.rsel := rfl
@[simp] theorem State.setPc_ppc (s : State) (a : Addr) : (s.setPc a).ppc = s.ppc := rfl
@[simp] theorem State.setPc_mem (s : State) (a : Addr) : (s.setPc a).mem = s.mem := rfl
@[simp] theorem State.setPc_params (s : State) (a : Addr) : (s.setPc a).params = s.params := rfl
@[simp] theorem State.setPc_events (s : State) (a : Addr) : (s.setPc a).events = s.events := rfl
@[simp] theorem State.setPc_vectors (s : State) (a : Addr) : (s.setPc a).vectors = s.vectors := rfl
@[simp] theorem State.setPc_portIn (s : State) (a : Addr) : (s.setPc a).portIn = s.portIn := rfl
@[simp] theorem State.setPc_inputs (s : State) (a : Addr) : (s.setPc a).inputs = s.inputs := rfl
@[simp] theorem State.setPc_bus (s : State) (a : Addr) : (s.setPc a).bus = s.bus := rfl

/-! ### advance -/

@[simp] theorem State.advance_r0 (s : State) (n : BitVec 13) : (s.advance n).r0 = s.r0 := rfl
@[simp] theorem State.advance_bank0 (s : State) (n : BitVec 13) : (s.advance n).bank0 = s.bank0 := rfl
@[simp] theorem State.advance_bank1 (s : State) (n : BitVec 13) : (s.advance n).bank1 = s.bank1 := rfl
@[simp] theorem State.advance_psl (s : State) (n : BitVec 13) : (s.advance n).psl = s.psl := rfl
@[simp] theorem State.advance_psu (s : State) (n : BitVec 13) : (s.advance n).psu = s.psu := rfl
@[simp] theorem State.advance_page (s : State) (n : BitVec 13) : (s.advance n).page = s.page := rfl
@[simp] theorem State.advance_offset (s : State) (n : BitVec 13) : (s.advance n).offset = s.offset + n := rfl
@[simp] theorem State.advance_ras (s : State) (n : BitVec 13) : (s.advance n).ras = s.ras := rfl
@[simp] theorem State.advance_halted (s : State) (n : BitVec 13) : (s.advance n).halted = s.halted := rfl
@[simp] theorem State.advance_irq (s : State) (n : BitVec 13) : (s.advance n).irq = s.irq := rfl
@[simp] theorem State.advance_ir (s : State) (n : BitVec 13) : (s.advance n).ir = s.ir := rfl
@[simp] theorem State.advance_ea (s : State) (n : BitVec 13) : (s.advance n).ea = s.ea := rfl
@[simp] theorem State.advance_rsel (s : State) (n : BitVec 13) : (s.advance n).rsel = s.rsel := rfl
@[simp] theorem State.advance_ppc (s : State) (n : BitVec 13) : (s.advance n).ppc = s.ppc := rfl
@[simp] theorem State.advance_mem (s : State) (n : BitVec 13) : (s.advance n).mem = s.mem := rfl
@[simp] theorem State.advance_params (s : State) (n : BitVec 13) : (s.advance n).params = s.params := rfl
@[simp] theorem State.advance_events (s : State) (n : BitVec 13) : (s.advance n).events = s.events := rfl
@[simp] theorem State.advance_vectors (s : State) (n : BitVec 13) : (s.advance n).vectors = s.vectors := rfl
@[simp] theorem State.advance_portIn (s : State) (n : BitVec 13) : (s.advance n).portIn = s.portIn := rfl
@[simp] theorem State.advance_inputs (s : State) (n : BitVec 13) : (s.advance n).inputs = s.inputs := rfl
@[simp] theorem State.advance_bus (s : State) (n : BitVec 13) : (s.advance n).bus = s.bus := rfl

/-! ### jump -/

@[simp] theorem State.jump_r0 (s : State) : (s.jump).r0 = s.r0 := rfl
@[simp] theorem State.jump_bank0 (s : State) : (s.jump).bank0 = s.bank0 := rfl
@[simp] theorem State.jump_bank1 (s : State) : (s.jump).bank1 = s.bank1 := rfl
@[simp] theorem State.jump_psl (s : State) : (s.jump).psl = s.psl := rfl
@[simp] theorem State.jump_psu (s : State) : (s.jump).psu = s.psu := rfl
@[simp] theorem State.jump_page (s : State) : (s.jump).page = pageOf s.ea := rfl
@[simp] theorem State.jump_offset (s : State) : (s.jump).offset = offsetOf s.ea := rfl
@[simp] theorem State.jump_ras (s : State) : (s.jump).ras = s.ras := rfl
@[simp] theorem State.jump_halted (s : State) : (s.jump).halted = s.halted := rfl
@[simp] theorem State.jump_irq (s : State) : (s.jump).irq = s.irq := rfl
@[simp] theorem State.jump_ir (s : State) : (s.jump).ir = s.ir := rfl
@[simp] theorem State.jump_ea (s : State) : (s.jump).ea = s.ea := rfl
@[simp] theorem State.jump_rsel (s : State) : (s.jump).rsel = s.rsel := rfl
@[simp] theorem State.jump_ppc (s : State) : (s.jump).ppc = s.ppc := rfl
@[simp] theorem State.jump_mem (s : State) : (s.jump).mem = s.mem := rfl
@[simp] theorem State.jump_params (s : State) : (s.jump).params = s.params := rfl
@[simp] theorem State.jump_events (s : State) : (s.jump).events = s.events := rfl
@[simp] theorem State.jump_vectors (s : State) : (s.jump).vectors = s.vectors := rfl
@[simp] theorem State.jump_portIn (s : State) : (s.jump).portIn = s.portIn := rfl
@[simp] theorem State.jump_inputs (s : State) : (s.jump).inputs = s.inputs := rfl
@[simp] theorem State.jump_bus (s : State) : (s.jump).bus = s.bus := rfl

/-! ### record -/

@[simp] theorem State.record_r0 (s : State) (x : Transaction) : (s.record x).r0 = s.r0 := rfl
@[simp] theorem State.record_bank0 (s : State) (x : Transaction) : (s.record x).bank0 = s.bank0 := rfl
@[simp] theorem State.record_bank1 (s : State) (x : Transaction) : (s.record x).bank1 = s.bank1 := rfl
@[simp] theorem State.record_psl (s : State) (x : Transaction) : (s.record x).psl = s.psl := rfl
@[simp] theorem State.record_psu (s : State) (x : Transaction) : (s.record x).psu = s.psu := rfl
@[simp] theorem State.record_page (s : State) (x : Transaction) : (s.record x).page = s.page := rfl
@[simp] theorem State.record_offset (s : State) (x : Transaction) : (s.record x).offset = s.offset := rfl
@[simp] theorem State.record_ras (s : State) (x : Transaction) : (s.record x).ras = s.ras := rfl
@[simp] theorem State.record_halted (s : State) (x : Transaction) : (s.record x).halted = s.halted := rfl
@[simp] theorem State.record_irq (s : State) (x : Transaction) : (s.record x).irq = s.irq := rfl
@[simp] theorem State.record_ir (s : State) (x : Transaction) : (s.record x).ir = s.ir := rfl
@[simp] theorem State.record_ea (s : State) (x : Transaction) : (s.record x).ea = s.ea := rfl
@[simp] theorem State.record_rsel (s : State) (x : Transaction) : (s.record x).rsel = s.rsel := rfl
@[simp] theorem State.record_ppc (s : State) (x : Transaction) : (s.record x).ppc = s.ppc := rfl
@[simp] theorem State.record_mem (s : State) (x : Transaction) : (s.record x).mem = s.mem := rfl
@[simp] theorem State.record_params (s : State) (x : Transaction) : (s.record x).params = s.params := rfl
@[simp] theorem State.record_events (s : State) (x : Transaction) : (s.record x).events = s.events := rfl
@[simp] theorem State.record_vectors (s : State) (x : Transaction) : (s.record x).vectors = s.vectors := rfl
@[simp] theorem State.record_portIn (s : State) (x : Transaction) : (s.record x).portIn = s.portIn := rfl
@[simp] theorem State.record_inputs (s : State) (x : Transaction) : (s.record x).inputs = s.inputs := rfl
@[simp] theorem State.record_bus (s : State) (x : Transaction) : (s.record x).bus = x :: s.bus := rfl

/-! ### dataRead -/

@[simp] theorem State.dataRead_r0 (s : State) (a : Addr) : (s.dataRead a).r0 = s.r0 := rfl
@[simp] theorem State.dataRead_bank0 (s : State) (a : Addr) : (s.dataRead a).bank0 = s.bank0 := rfl
@[simp] theorem State.dataRead_bank1 (s : State) (a : Addr) : (s.dataRead a).bank1 = s.bank1 := rfl
@[simp] theorem State.dataRead_psl (s : State) (a : Addr) : (s.dataRead a).psl = s.psl := rfl
@[simp] theorem State.dataRead_psu (s : State) (a : Addr) : (s.dataRead a).psu = s.psu := rfl
@[simp] theorem State.dataRead_page (s : State) (a : Addr) : (s.dataRead a).page = s.page := rfl
@[simp] theorem State.dataRead_offset (s : State) (a : Addr) : (s.dataRead a).offset = s.offset := rfl
@[simp] theorem State.dataRead_ras (s : State) (a : Addr) : (s.dataRead a).ras = s.ras := rfl
@[simp] theorem State.dataRead_halted (s : State) (a : Addr) : (s.dataRead a).halted = s.halted := rfl
@[simp] theorem State.dataRead_irq (s : State) (a : Addr) : (s.dataRead a).irq = s.irq := rfl
@[simp] theorem State.dataRead_ir (s : State) (a : Addr) : (s.dataRead a).ir = s.ir := rfl
@[simp] theorem State.dataRead_ea (s : State) (a : Addr) : (s.dataRead a).ea = s.ea := rfl
@[simp] theorem State.dataRead_rsel (s : State) (a : Addr) : (s.dataRead a).rsel = s.rsel := rfl
@[simp] theorem State.dataRead_ppc (s : State) (a : Addr) : (s.dataRead a).ppc = s.ppc := rfl
@[simp] theorem State.dataRead_mem (s : State) (a : Addr) : (s.dataRead a).mem = s.mem := rfl
@[simp] theorem State.dataRead_params (s : State) (a : Addr) : (s.dataRead a).params = s.params := rfl
@[simp] theorem State.dataRead_events (s : State) (a : Addr) : (s.dataRead a).events = s.events := rfl
@[simp] theorem State.dataRead_vectors (s : State) (a : Addr) : (s.dataRead a).vectors = s.vectors := rfl
@[simp] theorem State.dataRead_portIn (s : State) (a : Addr) : (s.dataRead a).portIn = s.portIn := rfl
@[simp] theorem State.dataRead_inputs (s : State) (a : Addr) : (s.dataRead a).inputs = s.inputs := rfl
@[simp] theorem State.dataRead_bus (s : State) (a : Addr) : (s.dataRead a).bus = .dataRead a :: s.bus := rfl

/-! ### memWrite -/

@[simp] theorem State.memWrite_r0 (s : State) (a : Addr) (v : Byte) : (s.memWrite a v).r0 = s.r0 := rfl
@[simp] theorem State.memWrite_bank0 (s : State) (a : Addr) (v : Byte) : (s.memWrite a v).bank0 = s.bank0 := rfl
@[simp] theorem State.memWrite_bank1 (s : State) (a : Addr) (v : Byte) : (s.memWrite a v).bank1 = s.bank1 := rfl
@[simp] theorem State.memWrite_psl (s : State) (a : Addr) (v : Byte) : (s.memWrite a v).psl = s.psl := rfl
@[simp] theorem State.memWrite_psu (s : State) (a : Addr) (v : Byte) : (s.memWrite a v).psu = s.psu := rfl
@[simp] theorem State.memWrite_page (s : State) (a : Addr) (v : Byte) : (s.memWrite a v).page = s.page := rfl
@[simp] theorem State.memWrite_offset (s : State) (a : Addr) (v : Byte) : (s.memWrite a v).offset = s.offset := rfl
@[simp] theorem State.memWrite_ras (s : State) (a : Addr) (v : Byte) : (s.memWrite a v).ras = s.ras := rfl
@[simp] theorem State.memWrite_halted (s : State) (a : Addr) (v : Byte) : (s.memWrite a v).halted = s.halted := rfl
@[simp] theorem State.memWrite_irq (s : State) (a : Addr) (v : Byte) : (s.memWrite a v).irq = s.irq := rfl
@[simp] theorem State.memWrite_ir (s : State) (a : Addr) (v : Byte) : (s.memWrite a v).ir = s.ir := rfl
@[simp] theorem State.memWrite_ea (s : State) (a : Addr) (v : Byte) : (s.memWrite a v).ea = s.ea := rfl
@[simp] theorem State.memWrite_rsel (s : State) (a : Addr) (v : Byte) : (s.memWrite a v).rsel = s.rsel := rfl
@[simp] theorem State.memWrite_ppc (s : State) (a : Addr) (v : Byte) : (s.memWrite a v).ppc = s.ppc := rfl
@[simp] theorem State.memWrite_mem (s : State) (a : Addr) (v : Byte) : (s.memWrite a v).mem = s.mem.write a.toNat v := rfl
@[simp] theorem State.memWrite_params (s : State) (a : Addr) (v : Byte) : (s.memWrite a v).params = s.params := rfl
@[simp] theorem State.memWrite_events (s : State) (a : Addr) (v : Byte) : (s.memWrite a v).events = s.events := rfl
@[simp] theorem State.memWrite_vectors (s : State) (a : Addr) (v : Byte) : (s.memWrite a v).vectors = s.vectors := rfl
@[simp] theorem State.memWrite_portIn (s : State) (a : Addr) (v : Byte) : (s.memWrite a v).portIn = s.portIn := rfl
@[simp] theorem State.memWrite_inputs (s : State) (a : Addr) (v : Byte) : (s.memWrite a v).inputs = s.inputs := rfl
@[simp] theorem State.memWrite_bus (s : State) (a : Addr) (v : Byte) : (s.memWrite a v).bus = .memWrite a v :: s.bus := rfl

/-! ### nextArg -/

@[simp] theorem State.nextArg_r0 (s : State) : (s.nextArg).r0 = s.r0 := rfl
@[simp] theorem State.nextArg_bank0 (s : State) : (s.nextArg).bank0 = s.bank0 := rfl
@[simp] theorem State.nextArg_bank1 (s : State) : (s.nextArg).bank1 = s.bank1 := rfl
@[simp] theorem State.nextArg_psl (s : State) : (s.nextArg).psl = s.psl := rfl
@[simp] theorem State.nextArg_psu (s : State) : (s.nextArg).psu = s.psu := rfl
@[simp] theorem State.nextArg_page (s : State) : (s.nextArg).page = s.page := rfl
@[simp] theorem State.nextArg_offset (s : State) : (s.nextArg).offset = s.offset + 1 := rfl
@[simp] theorem State.nextArg_ras (s : State) : (s.nextArg).ras = s.ras := rfl
@[simp] theorem State.nextArg_halted (s : State) : (s.nextArg).halted = s.halted := rfl
@[simp] theorem State.nextArg_irq (s : State) : (s.nextArg).irq = s.irq := rfl
@[simp] theorem State.nextArg_ir (s : State) : (s.nextArg).ir = s.ir := rfl
@[simp] theorem State.nextArg_ea (s : State) : (s.nextArg).ea = s.ea := rfl
@[simp] theorem State.nextArg_rsel (s : State) : (s.nextArg).rsel = s.rsel := rfl
@[simp] theorem State.nextArg_ppc (s : State) : (s.nextArg).ppc = s.ppc := rfl
@[simp] theorem State.nextArg_mem (s : State) : (s.nextArg).mem = s.mem := rfl
@[simp] theorem State.nextArg_params (s : State) : (s.nextArg).params = s.params := rfl
@[simp] theorem State.nextArg_events (s : State) : (s.nextArg).events = s.events := rfl
@[simp] theorem State.nextArg_vectors (s : State) : (s.nextArg).vectors = s.vectors := rfl
@[simp] theorem State.nextArg_portIn (s : State) : (s.nextArg).portIn = s.portIn := rfl
@[simp] theorem State.nextArg_inputs (s : State) : (s.nextArg).inputs = s.inputs := rfl
@[simp] theorem State.nextArg_bus (s : State) : (s.nextArg).bus = .fetchArg s.pc :: s.bus := rfl

/-! ### portRead -/

@[simp] theorem State.portRead_r0 (s : State) (p : Port) : (s.portRead p).r0 = s.r0 := rfl
@[simp] theorem State.portRead_bank0 (s : State) (p : Port) : (s.portRead p).bank0 = s.bank0 := rfl
@[simp] theorem State.portRead_bank1 (s : State) (p : Port) : (s.portRead p).bank1 = s.bank1 := rfl
@[simp] theorem State.portRead_psl (s : State) (p : Port) : (s.portRead p).psl = s.psl := rfl
@[simp] theorem State.portRead_psu (s : State) (p : Port) : (s.portRead p).psu = s.psu := rfl
@[simp] theorem State.portRead_page (s : State) (p : Port) : (s.portRead p).page = s.page := rfl
@[simp] theorem State.portRead_offset (s : State) (p : Port) : (s.portRead p).offset = s.offset := rfl
@[simp] theorem State.portRead_ras (s : State) (p : Port) : (s.portRead p).ras = s.ras := rfl
@[simp] theorem State.portRead_halted (s : State) (p : Port) : (s.portRead p).halted = s.halted := rfl
@[simp] theorem State.portRead_irq (s : State) (p : Port) : (s.portRead p).irq = s.irq := rfl
@[simp] theorem State.portRead_ir (s : State) (p : Port) : (s.portRead p).ir = s.ir := rfl
@[simp] theorem State.portRead_ea (s : State) (p : Port) : (s.portRead p).ea = s.ea := rfl
@[simp] theorem State.portRead_rsel (s : State) (p : Port) : (s.portRead p).rsel = s.rsel := rfl
@[simp] theorem State.portRead_ppc (s : State) (p : Port) : (s.portRead p).ppc = s.ppc := rfl
@[simp] theorem State.portRead_mem (s : State) (p : Port) : (s.portRead p).mem = s.mem := rfl
@[simp] theorem State.portRead_params (s : State) (p : Port) : (s.portRead p).params = s.params := rfl
@[simp] theorem State.portRead_events (s : State) (p : Port) : (s.portRead p).events = s.events := rfl
@[simp] theorem State.portRead_vectors (s : State) (p : Port) : (s.portRead p).vectors = s.vectors := rfl
@[simp] theorem State.portRead_portIn (s : State) (p : Port) : (s.portRead p).portIn = s.portIn.tail := rfl
@[simp] theorem State.portRead_inputs (s : State) (p : Port) : (s.portRead p).inputs = s.inputs + 1 := rfl
@[simp] theorem State.portRead_bus (s : State) (p : Port) : (s.portRead p).bus = .portRead p :: s.bus := rfl

/-! ### portWrite -/

@[simp] theorem State.portWrite_r0 (s : State) (p : Port) (v : Byte) : (s.portWrite p v).r0 = s.r0 := rfl
@[simp] theorem State.portWrite_bank0 (s : State) (p : Port) (v : Byte) : (s.portWrite p v).bank0 = s.bank0 := rfl
@[simp] theorem State.portWrite_bank1 (s : State) (p : Port) (v : Byte) : (s.portWrite p v).bank1 = s.bank1 := rfl
@[simp] theorem State.portWrite_psl (s : State) (p : Port) (v : Byte) : (s.portWrite p v).psl = s.psl := rfl
@[simp] theorem State.portWrite_psu (s : State) (p : Port) (v : Byte) : (s.portWrite p v).psu = s.psu := rfl
@[simp] theorem State.portWrite_page (s : State) (p : Port) (v : Byte) : (s.portWrite p v).page = s.page := rfl
@[simp] theorem State.portWrite_offset (s : State) (p : Port) (v : Byte) : (s.portWrite p v).offset = s.offset := rfl
@[simp] theorem State.portWrite_ras (s : State) (p : Port) (v : Byte) : (s.portWrite p v).ras = s.ras := rfl
@[simp] theorem State.portWrite_halted (s : State) (p : Port) (v : Byte) : (s.portWrite p v).halted = s.halted := rfl
@[simp] theorem State.portWrite_irq (s : State) (p : Port) (v : Byte) : (s.portWrite p v).irq = s.irq := rfl
@[simp] theorem State.portWrite_ir (s : State) (p : Port) (v : Byte) : (s.portWrite p v).ir = s.ir := rfl
@[simp] theorem State.portWrite_ea (s : State) (p : Port) (v : Byte) : (s.portWrite p v).ea = s.ea := rfl
@[simp] theorem State.portWrite_rsel (s : State) (p : Port) (v : Byte) : (s.portWrite p v).rsel = s.rsel := rfl
@[simp] theorem State.portWrite_ppc (s : State) (p : Port) (v : Byte) : (s.portWrite p v).ppc = s.ppc := rfl
@[simp] theorem State.portWrite_mem (s : State) (p : Port) (v : Byte) : (s.portWrite p v).mem = s.mem := rfl
@[simp] theorem State.portWrite_params (s : State) (p : Port) (v : Byte) : (s.portWrite p v).params = s.params := rfl
@[simp] theorem State.portWrite_events (s : State) (p : Port) (v : Byte) : (s.portWrite p v).events = s.events := rfl
@[simp] theorem State.portWrite_vectors (s : State) (p : Port) (v : Byte) : (s.portWrite p v).vectors = s.vectors := rfl
@[simp] theorem State.portWrite_portIn (s : State) (p : Port) (v : Byte) : (s.portWrite p v).portIn = s.portIn := rfl
@[simp] theorem State.portWrite_inputs (s : State) (p : Port) (v : Byte) : (s.portWrite p v).inputs = s.inputs := rfl
@[simp] theorem State.portWrite_bus (s : State) (p : Port) (v : Byte) : (s.portWrite p v).bus = .portWrite p v :: s.bus := rfl

/-! ### intAck -/

@[simp] theorem State.intAck_r0 (s : State) : (s.intAck).r0 = s.r0 := rfl
@[simp] theorem State.intAck_bank0 (s : State) : (s.intAck).bank0 = s.bank0 := rfl
@[simp] theorem State.intAck_bank1 (s : State) : (s.intAck).bank1 = s.bank1 := rfl
@[simp] theorem State.intAck_psl (s : State) : (s.intAck).psl = s.psl := rfl
@[simp] theorem State.intAck_psu (s : State) : (s.intAck).psu = s.psu := rfl
@[simp] theorem State.intAck_page (s : State) : (s.intAck).page = s.page := rfl
@[simp] theorem State.intAck_offset (s : State) : (s.intAck).offset = s.offset := rfl
@[simp] theorem State.intAck_ras (s : State) : (s.intAck).ras = s.ras := rfl
@[simp] theorem State.intAck_halted (s : State) : (s.intAck).halted = s.halted := rfl
@[simp] theorem State.intAck_irq (s : State) : (s.intAck).irq = s.irq := rfl
@[simp] theorem State.intAck_ir (s : State) : (s.intAck).ir = s.ir := rfl
@[simp] theorem State.intAck_ea (s : State) : (s.intAck).ea = s.ea := rfl
@[simp] theorem State.intAck_rsel (s : State) : (s.intAck).rsel = s.rsel := rfl
@[simp] theorem State.intAck_ppc (s : State) : (s.intAck).ppc = s.ppc := rfl
@[simp] theorem State.intAck_mem (s : State) : (s.intAck).mem = s.mem := rfl
@[simp] theorem State.intAck_params (s : State) : (s.intAck).params = s.params := rfl
@[simp] theorem State.intAck_events (s : State) : (s.intAck).events = s.events := rfl
@[simp] theorem State.intAck_vectors (s : State) : (s.intAck).vectors = s.vectors.tail := rfl
@[simp] theorem State.intAck_portIn (s : State) : (s.intAck).portIn = s.portIn := rfl
@[simp] theorem State.intAck_inputs (s : State) : (s.intAck).inputs = s.inputs + 1 := rfl
@[simp] theorem State.intAck_bus (s : State) : (s.intAck).bus = .intAck :: s.bus := rfl

/-! ### setEa -/

@[simp] theorem State.setEa_r0 (s : State) (a : Addr) : (s.setEa a).r0 = s.r0 := rfl
@[simp] theorem State.setEa_bank0 (s : State) (a : Addr) : (s.setEa a).bank0 = s.bank0 := rfl
@[simp] theorem State.setEa_bank1 (s : State) (a : Addr) : (s.setEa a).bank1 = s.bank1 := rfl
@[simp] theorem State.setEa_psl (s : State) (a : Addr) : (s.setEa a).psl = s.psl := rfl
@[simp] theorem State.setEa_psu (s : State) (a : Addr) : (s.setEa a).psu = s.psu := rfl
@[simp] theorem State.setEa_page (s : State) (a : Addr) : (s.setEa a).page = s.page := rfl
@[simp] theorem State.setEa_offset (s : State) (a : Addr) : (s.setEa a).offset = s.offset := rfl
@[simp] theorem State.setEa_ras (s : State) (a : Addr) : (s.setEa a).ras = s.ras := rfl
@[simp] theorem State.setEa_halted (s : State) (a : Addr) : (s.setEa a).halted = s.halted := rfl
@[simp] theorem State.setEa_irq (s : State) (a : Addr) : (s.setEa a).irq = s.irq := rfl
@[simp] theorem State.setEa_ir (s : State) (a : Addr) : (s.setEa a).ir = s.ir := rfl
@[simp] theorem State.setEa_ea (s : State) (a : Addr) : (s.setEa a).ea = a := rfl
@[simp] theorem State.setEa_rsel (s : State) (a : Addr) : (s.setEa a).rsel = s.rsel := rfl
@[simp] theorem State.setEa_ppc (s : State) (a : Addr) : (s.setEa a).ppc = s.ppc := rfl
@[simp] theorem State.setEa_mem (s : State) (a : Addr) : (s.setEa a).mem = s.mem := rfl
@[simp] theorem State.setEa_params (s : State) (a : Addr) : (s.setEa a).params = s.params := rfl
@[simp] theorem State.setEa_events (s : State) (a : Addr) : (s.setEa a).events = s.events := rfl
@[simp] theorem State.setEa_vectors (s : State) (a : Addr) : (s.setEa a).vectors = s.vectors := rfl
@[simp] theorem State.setEa_portIn (s : State) (a : Addr) : (s.setEa a).portIn = s.portIn := rfl
@[simp] theorem State.setEa_inputs (s : State) (a : Addr) : (s.setEa a).inputs = s.inputs := rfl
@[simp] theorem State.setEa_bus (s : State) (a : Addr) : (s.setEa a).bus = s.bus := rfl

/-! ### indirect -/

@[simp] theorem State.indirect_r0 (s : State) : (s.indirect).r0 = s.r0 := rfl
@[simp] theorem State.indirect_bank0 (s : State) : (s.indirect).bank0 = s.bank0 := rfl
@[simp] theorem State.indirect_bank1 (s : State) : (s.indirect).bank1 = s.bank1 := rfl
@[simp] theorem State.indirect_psl (s : State) : (s.indirect).psl = s.psl := rfl
@[simp] theorem State.indirect_psu (s : State) : (s.indirect).psu = s.psu := rfl
@[simp] theorem State.indirect_page (s : State) : (s.indirect).page = s.page := rfl
@[simp] theorem State.indirect_offset (s : State) : (s.indirect).offset = s.offset := rfl
@[simp] theorem State.indirect_ras (s : State) : (s.indirect).ras = s.ras := rfl
@[simp] theorem State.indirect_halted (s : State) : (s.indirect).halted = s.halted := rfl
@[simp] theorem State.indirect_irq (s : State) : (s.indirect).irq = s.irq := rfl
@[simp] theorem State.indirect_ir (s : State) : (s.indirect).ir = s.ir := rfl
@[simp] theorem State.indirect_ea (s : State) : (s.indirect).ea = s.pointerAt s.ea := rfl
@[simp] theorem State.indirect_rsel (s : State) : (s.indirect).rsel = s.rsel := rfl
@[simp] theorem State.indirect_ppc (s : State) : (s.indirect).ppc = s.ppc := rfl
@[simp] theorem State.indirect_mem (s : State) : (s.indirect).mem = s.mem := rfl
@[simp] theorem State.indirect_params (s : State) : (s.indirect).params = s.params := rfl
@[simp] theorem State.indirect_events (s : State) : (s.indirect).events = s.events := rfl
@[simp] theorem State.indirect_vectors (s : State) : (s.indirect).vectors = s.vectors := rfl
@[simp] theorem State.indirect_portIn (s : State) : (s.indirect).portIn = s.portIn := rfl
@[simp] theorem State.indirect_inputs (s : State) : (s.indirect).inputs = s.inputs := rfl
@[simp] theorem State.indirect_bus (s : State) : (s.indirect).bus = .dataRead (nextInPage s.ea) :: .dataRead s.ea :: s.bus := rfl

/-! ### push -/

@[simp] theorem State.push_r0 (s : State) (a : Addr) : (s.push a).r0 = s.r0 := rfl
@[simp] theorem State.push_bank0 (s : State) (a : Addr) : (s.push a).bank0 = s.bank0 := rfl
@[simp] theorem State.push_bank1 (s : State) (a : Addr) : (s.push a).bank1 = s.bank1 := rfl
@[simp] theorem State.push_psl (s : State) (a : Addr) : (s.push a).psl = s.psl := rfl
@[simp] theorem State.push_psu (s : State) (a : Addr) : (s.push a).psu = withSp s.psu (s.sp + 1) := rfl
@[simp] theorem State.push_page (s : State) (a : Addr) : (s.push a).page = s.page := rfl
@[simp] theorem State.push_offset (s : State) (a : Addr) : (s.push a).offset = s.offset := rfl
@[simp] theorem State.push_ras (s : State) (a : Addr) : (s.push a).ras = s.ras.set s.sp.toNat a s.sp.isLt := rfl
@[simp] theorem State.push_halted (s : State) (a : Addr) : (s.push a).halted = s.halted := rfl
@[simp] theorem State.push_irq (s : State) (a : Addr) : (s.push a).irq = s.irq := rfl
@[simp] theorem State.push_ir (s : State) (a : Addr) : (s.push a).ir = s.ir := rfl
@[simp] theorem State.push_ea (s : State) (a : Addr) : (s.push a).ea = s.ea := rfl
@[simp] theorem State.push_rsel (s : State) (a : Addr) : (s.push a).rsel = s.rsel := rfl
@[simp] theorem State.push_ppc (s : State) (a : Addr) : (s.push a).ppc = s.ppc := rfl
@[simp] theorem State.push_mem (s : State) (a : Addr) : (s.push a).mem = s.mem := rfl
@[simp] theorem State.push_params (s : State) (a : Addr) : (s.push a).params = s.params := rfl
@[simp] theorem State.push_events (s : State) (a : Addr) : (s.push a).events = s.events := rfl
@[simp] theorem State.push_vectors (s : State) (a : Addr) : (s.push a).vectors = s.vectors := rfl
@[simp] theorem State.push_portIn (s : State) (a : Addr) : (s.push a).portIn = s.portIn := rfl
@[simp] theorem State.push_inputs (s : State) (a : Addr) : (s.push a).inputs = s.inputs := rfl
@[simp] theorem State.push_bus (s : State) (a : Addr) : (s.push a).bus = s.bus := rfl

/-! ### popJump -/

@[simp] theorem State.popJump_r0 (s : State) : (s.popJump).r0 = s.r0 := rfl
@[simp] theorem State.popJump_bank0 (s : State) : (s.popJump).bank0 = s.bank0 := rfl
@[simp] theorem State.popJump_bank1 (s : State) : (s.popJump).bank1 = s.bank1 := rfl
@[simp] theorem State.popJump_psl (s : State) : (s.popJump).psl = s.psl := rfl
@[simp] theorem State.popJump_psu (s : State) : (s.popJump).psu = withSp s.psu (s.sp - 1) := rfl
@[simp] theorem State.popJump_page (s : State) : (s.popJump).page = pageOf s.stackTop := rfl
@[simp] theorem State.popJump_offset (s : State) : (s.popJump).offset = offsetOf s.stackTop := rfl
@[simp] theorem State.popJump_ras (s : State) : (s.popJump).ras = s.ras := rfl
@[simp] theorem State.popJump_halted (s : State) : (s.popJump).halted = s.halted := rfl
@[simp] theorem State.popJump_irq (s : State) : (s.popJump).irq = s.irq := rfl
@[simp] theorem State.popJump_ir (s : State) : (s.popJump).ir = s.ir := rfl
@[simp] theorem State.popJump_ea (s : State) : (s.popJump).ea = s.ea := rfl
@[simp] theorem State.popJump_rsel (s : State) : (s.popJump).rsel = s.rsel := rfl
@[simp] theorem State.popJump_ppc (s : State) : (s.popJump).ppc = s.ppc := rfl
@[simp] theorem State.popJump_mem (s : State) : (s.popJump).mem = s.mem := rfl
@[simp] theorem State.popJump_params (s : State) : (s.popJump).params = s.params := rfl
@[simp] theorem State.popJump_events (s : State) : (s.popJump).events = s.events := rfl
@[simp] theorem State.popJump_vectors (s : State) : (s.popJump).vectors = s.vectors := rfl
@[simp] theorem State.popJump_portIn (s : State) : (s.popJump).portIn = s.portIn := rfl
@[simp] theorem State.popJump_inputs (s : State) : (s.popJump).inputs = s.inputs := rfl
@[simp] theorem State.popJump_bus (s : State) : (s.popJump).bus = s.bus := rfl

/-! ### afterOpcode -/

@[simp] theorem State.afterOpcode_r0 (s : State) : (s.afterOpcode).r0 = s.r0 := rfl
@[simp] theorem State.afterOpcode_bank0 (s : State) : (s.afterOpcode).bank0 = s.bank0 := rfl
@[simp] theorem State.afterOpcode_bank1 (s : State) : (s.afterOpcode).bank1 = s.bank1 := rfl
@[simp] theorem State.afterOpcode_psl (s : State) : (s.afterOpcode).psl = s.psl := rfl
@[simp] theorem State.afterOpcode_psu (s : State) : (s.afterOpcode).psu = s.psu := rfl
@[simp] theorem State.afterOpcode_page (s : State) : (s.afterOpcode).page = s.page := rfl
@[simp] theorem State.afterOpcode_offset (s : State) : (s.afterOpcode).offset = s.offset + 1 := rfl
@[simp] theorem State.afterOpcode_ras (s : State) : (s.afterOpcode).ras = s.ras := rfl
@[simp] theorem State.afterOpcode_halted (s : State) : (s.afterOpcode).halted = s.halted := rfl
@[simp] theorem State.afterOpcode_irq (s : State) : (s.afterOpcode).irq = s.irq := rfl
@[simp] theorem State.afterOpcode_ir (s : State) : (s.afterOpcode).ir = s.peek s.pc := rfl
@[simp] theorem State.afterOpcode_ea (s : State) : (s.afterOpcode).ea = s.ea := rfl
@[simp] theorem State.afterOpcode_rsel (s : State) : (s.afterOpcode).rsel = (s.peek s.pc).extractLsb' 0 2 := rfl
@[simp] theorem State.afterOpcode_ppc (s : State) : (s.afterOpcode).ppc = s.pc := rfl
@[simp] theorem State.afterOpcode_mem (s : State) : (s.afterOpcode).mem = s.mem := rfl
@[simp] theorem State.afterOpcode_params (s : State) : (s.afterOpcode).params = s.params := rfl
@[simp] theorem State.afterOpcode_events (s : State) : (s.afterOpcode).events = s.events := rfl
@[simp] theorem State.afterOpcode_vectors (s : State) : (s.afterOpcode).vectors = s.vectors := rfl
@[simp] theorem State.afterOpcode_portIn (s : State) : (s.afterOpcode).portIn = s.portIn := rfl
@[simp] theorem State.afterOpcode_inputs (s : State) : (s.afterOpcode).inputs = s.inputs := rfl
@[simp] theorem State.afterOpcode_bus (s : State) : (s.afterOpcode).bus = .fetchOp s.pc :: s.bus := rfl

/-! ### clearRsel -/

@[simp] theorem State.clearRsel_r0 (s : State) : (s.clearRsel).r0 = s.r0 := rfl
@[simp] theorem State.clearRsel_bank0 (s : State) : (s.clearRsel).bank0 = s.bank0 := rfl
@[simp] theorem State.clearRsel_bank1 (s : State) : (s.clearRsel).bank1 = s.bank1 := rfl
@[simp] theorem State.clearRsel_psl (s : State) : (s.clearRsel).psl = s.psl := rfl
@[simp] theorem State.clearRsel_psu (s : State) : (s.clearRsel).psu = s.psu := rfl
@[simp] theorem State.clearRsel_page (s : State) : (s.clearRsel).page = s.page := rfl
@[simp] theorem State.clearRsel_offset (s : State) : (s.clearRsel).offset = s.offset := rfl
@[simp] theorem State.clearRsel_ras (s : State) : (s.clearRsel).ras = s.ras := rfl
@[simp] theorem State.clearRsel_halted (s : State) : (s.clearRsel).halted = s.halted := rfl
@[simp] theorem State.clearRsel_irq (s : State) : (s.clearRsel).irq = s.irq := rfl
@[simp] theorem State.clearRsel_ir (s : State) : (s.clearRsel).ir = s.ir := rfl
@[simp] theorem State.clearRsel_ea (s : State) : (s.clearRsel).ea = s.ea := rfl
@[simp] theorem State.clearRsel_rsel (s : State) : (s.clearRsel).rsel = 0 := rfl
@[simp] theorem State.clearRsel_ppc (s : State) : (s.clearRsel).ppc = s.ppc := rfl
@[simp] theorem State.clearRsel_mem (s : State) : (s.clearRsel).mem = s.mem := rfl
@[simp] theorem State.clearRsel_params (s : State) : (s.clearRsel).params = s.params := rfl
@[simp] theorem State.clearRsel_events (s : State) : (s.clearRsel).events = s.events := rfl
@[simp] theorem State.clearRsel_vectors (s : State) : (s.clearRsel).vectors = s.vectors := rfl
@[simp] theorem State.clearRsel_portIn (s : State) : (s.clearRsel).portIn = s.portIn := rfl
@[simp] theorem State.clearRsel_inputs (s : State) : (s.clearRsel).inputs = s.inputs := rfl
@[simp] theorem State.clearRsel_bus (s : State) : (s.clearRsel).bus = s.bus := rfl

/-! ### addIndex -/

@[simp] theorem State.addIndex_r0 (s : State) (r : Reg) : (s.addIndex r).r0 = s.r0 := rfl
@[simp] theorem State.addIndex_bank0 (s : State) (r : Reg) : (s.addIndex r).bank0 = s.bank0 := rfl
@[simp] theorem State.addIndex_bank1 (s : State) (r : Reg) : (s.addIndex r).bank1 = s.bank1 := rfl
@[simp] theorem State.addIndex_psl (s : State) (r : Reg) : (s.addIndex r).psl = s.psl := rfl
@[simp] theorem State.addIndex_psu (s : State) (r : Reg) : (s.addIndex r).psu = s.psu := rfl
@[simp] theorem State.addIndex_page (s : State) (r : Reg) : (s.addIndex r).page = s.page := rfl
@[simp] theorem State.addIndex_offset (s : State) (r : Reg) : (s.addIndex r).offset = s.offset := rfl
@[simp] theorem State.addIndex_ras (s : State) (r : Reg) : (s.addIndex r).ras = s.ras := rfl
@[simp] theorem State.addIndex_halted (s : State) (r : Reg) : (s.addIndex r).halted = s.halted := rfl
@[simp] theorem State.addIndex_irq (s : State) (r : Reg) : (s.addIndex r).irq = s.irq := rfl
@[simp] theorem State.addIndex_ir (s : State) (r : Reg) : (s.addIndex r).ir = s.ir := rfl
@[simp] theorem State.addIndex_ea (s : State) (r : Reg) : (s.addIndex r).ea = wrapAdd s.ea ((s.reg r).setWidth 13) := rfl
@[simp] theorem State.addIndex_rsel (s : State) (r : Reg) : (s.addIndex r).rsel = s.rsel := rfl
@[simp] theorem State.addIndex_ppc (s : State) (r : Reg) : (s.addIndex r).ppc = s.ppc := rfl
@[simp] theorem State.addIndex_mem (s : State) (r : Reg) : (s.addIndex r).mem = s.mem := rfl
@[simp] theorem State.addIndex_params (s : State) (r : Reg) : (s.addIndex r).params = s.params := rfl
@[simp] theorem State.addIndex_events (s : State) (r : Reg) : (s.addIndex r).events = s.events := rfl
@[simp] theorem State.addIndex_vectors (s : State) (r : Reg) : (s.addIndex r).vectors = s.vectors := rfl
@[simp] theorem State.addIndex_portIn (s : State) (r : Reg) : (s.addIndex r).portIn = s.portIn := rfl
@[simp] theorem State.addIndex_inputs (s : State) (r : Reg) : (s.addIndex r).inputs = s.inputs := rfl
@[simp] theorem State.addIndex_bus (s : State) (r : Reg) : (s.addIndex r).bus = s.bus := rfl

/-! ### setReg and setActiveBank -/

@[simp] theorem State.setActiveBank_r0 (s : State) (b : Bank) : (s.setActiveBank b).r0 = s.r0 := by
  unfold State.setActiveBank; split <;> rfl
@[simp] theorem State.setActiveBank_psl (s : State) (b : Bank) : (s.setActiveBank b).psl = s.psl := by
  unfold State.setActiveBank; split <;> rfl
@[simp] theorem State.setActiveBank_psu (s : State) (b : Bank) : (s.setActiveBank b).psu = s.psu := by
  unfold State.setActiveBank; split <;> rfl
@[simp] theorem State.setActiveBank_page (s : State) (b : Bank) : (s.setActiveBank b).page = s.page := by
  unfold State.setActiveBank; split <;> rfl
@[simp] theorem State.setActiveBank_offset (s : State) (b : Bank) : (s.setActiveBank b).offset = s.offset := by
  unfold State.setActiveBank; split <;> rfl
@[simp] theorem State.setActiveBank_ras (s : State) (b : Bank) : (s.setActiveBank b).ras = s.ras := by
  unfold State.setActiveBank; split <;> rfl
@[simp] theorem State.setActiveBank_halted (s : State) (b : Bank) : (s.setActiveBank b).halted = s.halted := by
  unfold State.setActiveBank; split <;> rfl
@[simp] theorem State.setActiveBank_irq (s : State) (b : Bank) : (s.setActiveBank b).irq = s.irq := by
  unfold State.setActiveBank; split <;> rfl
@[simp] theorem State.setActiveBank_ir (s : State) (b : Bank) : (s.setActiveBank b).ir = s.ir := by
  unfold State.setActiveBank; split <;> rfl
@[simp] theorem State.setActiveBank_ea (s : State) (b : Bank) : (s.setActiveBank b).ea = s.ea := by
  unfold State.setActiveBank; split <;> rfl
@[simp] theorem State.setActiveBank_rsel (s : State) (b : Bank) : (s.setActiveBank b).rsel = s.rsel := by
  unfold State.setActiveBank; split <;> rfl
@[simp] theorem State.setActiveBank_ppc (s : State) (b : Bank) : (s.setActiveBank b).ppc = s.ppc := by
  unfold State.setActiveBank; split <;> rfl
@[simp] theorem State.setActiveBank_mem (s : State) (b : Bank) : (s.setActiveBank b).mem = s.mem := by
  unfold State.setActiveBank; split <;> rfl
@[simp] theorem State.setActiveBank_params (s : State) (b : Bank) : (s.setActiveBank b).params = s.params := by
  unfold State.setActiveBank; split <;> rfl
@[simp] theorem State.setActiveBank_events (s : State) (b : Bank) : (s.setActiveBank b).events = s.events := by
  unfold State.setActiveBank; split <;> rfl
@[simp] theorem State.setActiveBank_vectors (s : State) (b : Bank) : (s.setActiveBank b).vectors = s.vectors := by
  unfold State.setActiveBank; split <;> rfl
@[simp] theorem State.setActiveBank_portIn (s : State) (b : Bank) : (s.setActiveBank b).portIn = s.portIn := by
  unfold State.setActiveBank; split <;> rfl
@[simp] theorem State.setActiveBank_inputs (s : State) (b : Bank) : (s.setActiveBank b).inputs = s.inputs := by
  unfold State.setActiveBank; split <;> rfl
@[simp] theorem State.setActiveBank_bus (s : State) (b : Bank) : (s.setActiveBank b).bus = s.bus := by
  unfold State.setActiveBank; split <;> rfl

@[simp] theorem State.setReg_psl (s : State) (r : Reg) (v : Byte) : (s.setReg r v).psl = s.psl := by
  cases r <;> simp [State.setReg]
@[simp] theorem State.setReg_psu (s : State) (r : Reg) (v : Byte) : (s.setReg r v).psu = s.psu := by
  cases r <;> simp [State.setReg]
@[simp] theorem State.setReg_page (s : State) (r : Reg) (v : Byte) : (s.setReg r v).page = s.page := by
  cases r <;> simp [State.setReg]
@[simp] theorem State.setReg_offset (s : State) (r : Reg) (v : Byte) : (s.setReg r v).offset = s.offset := by
  cases r <;> simp [State.setReg]
@[simp] theorem State.setReg_ras (s : State) (r : Reg) (v : Byte) : (s.setReg r v).ras = s.ras := by
  cases r <;> simp [State.setReg]
@[simp] theorem State.setReg_halted (s : State) (r : Reg) (v : Byte) : (s.setReg r v).halted = s.halted := by
  cases r <;> simp [State.setReg]
@[simp] theorem State.setReg_irq (s : State) (r : Reg) (v : Byte) : (s.setReg r v).irq = s.irq := by
  cases r <;> simp [State.setReg]
@[simp] theorem State.setReg_ir (s : State) (r : Reg) (v : Byte) : (s.setReg r v).ir = s.ir := by
  cases r <;> simp [State.setReg]
@[simp] theorem State.setReg_ea (s : State) (r : Reg) (v : Byte) : (s.setReg r v).ea = s.ea := by
  cases r <;> simp [State.setReg]
@[simp] theorem State.setReg_rsel (s : State) (r : Reg) (v : Byte) : (s.setReg r v).rsel = s.rsel := by
  cases r <;> simp [State.setReg]
@[simp] theorem State.setReg_ppc (s : State) (r : Reg) (v : Byte) : (s.setReg r v).ppc = s.ppc := by
  cases r <;> simp [State.setReg]
@[simp] theorem State.setReg_mem (s : State) (r : Reg) (v : Byte) : (s.setReg r v).mem = s.mem := by
  cases r <;> simp [State.setReg]
@[simp] theorem State.setReg_params (s : State) (r : Reg) (v : Byte) : (s.setReg r v).params = s.params := by
  cases r <;> simp [State.setReg]
@[simp] theorem State.setReg_events (s : State) (r : Reg) (v : Byte) : (s.setReg r v).events = s.events := by
  cases r <;> simp [State.setReg]
@[simp] theorem State.setReg_vectors (s : State) (r : Reg) (v : Byte) : (s.setReg r v).vectors = s.vectors := by
  cases r <;> simp [State.setReg]
@[simp] theorem State.setReg_portIn (s : State) (r : Reg) (v : Byte) : (s.setReg r v).portIn = s.portIn := by
  cases r <;> simp [State.setReg]
@[simp] theorem State.setReg_inputs (s : State) (r : Reg) (v : Byte) : (s.setReg r v).inputs = s.inputs := by
  cases r <;> simp [State.setReg]
@[simp] theorem State.setReg_bus (s : State) (r : Reg) (v : Byte) : (s.setReg r v).bus = s.bus := by
  cases r <;> simp [State.setReg]

end Sys2Proof.Machine
end

