-- ==== Sys2Proof/Laws/Ops.lean ====
section
/-!
SUPPORT. What the readings of a state (a register, the program counter, a byte of memory ...) answer after each update,
and one lemma per shared operation that says everything it can do (Machine/Ops.lean, Machine/Operands.lean).
-/

namespace Sys2Proof.Machine

/-! ### reg after an update that does not concern it -/

@[simp] theorem State.reg_psuWrite (s : State) (v : Byte) (q : Reg) : (s.psuWrite v).reg q = s.reg q := rfl
@[simp] theorem State.reg_setIi (s : State) (b : Bool) (q : Reg) : (s.setIi b).reg q = s.reg q := rfl
@[simp] theorem State.reg_setPc (s : State) (a : Addr) (q : Reg) : (s.setPc a).reg q = s.reg q := rfl
@[simp] theorem State.reg_advance (s : State) (n : BitVec 13) (q : Reg) : (s.advance n).reg q = s.reg q := rfl
@[simp] theorem State.reg_jump (s : State) (q : Reg) : (s.jump).reg q = s.reg q := rfl
@[simp] theorem State.reg_record (s : State) (x : Transaction) (q : Reg) : (s.record x).reg q = s.reg q := rfl
@[simp] theorem State.reg_dataRead (s : State) (a : Addr) (q : Reg) : (s.dataRead a).reg q = s.reg q := rfl
@[simp] theorem State.reg_memWrite (s : State) (a : Addr) (v : Byte) (q : Reg) : (s.memWrite a v).reg q = s.reg q := rfl
@[simp] theorem State.reg_nextArg (s : State) (q : Reg) : (s.nextArg).reg q = s.reg q := rfl
@[simp] theorem State.reg_portRead (s : State) (p : Port) (q : Reg) : (s.portRead p).reg q = s.reg q := rfl
@[simp] theorem State.reg_portWrite (s : State) (p : Port) (v : Byte) (q : Reg) : (s.portWrite p v).reg q = s.reg q := rfl
@[simp] theorem State.reg_intAck (s : State) (q : Reg) : (s.intAck).reg q = s.reg q := rfl
@[simp] theorem State.reg_setEa (s : State) (a : Addr) (q : Reg) : (s.setEa a).reg q = s.reg q := rfl
@[simp] theorem State.reg_indirect (s : State) (q : Reg) : (s.indirect).reg q = s.reg q := rfl
@[simp] theorem State.reg_push (s : State) (a : Addr) (q : Reg) : (s.push a).reg q = s.reg q := rfl
@[simp] theorem State.reg_popJump (s : State) (q : Reg) : (s.popJump).reg q = s.reg q := rfl
@[simp] theorem State.reg_afterOpcode (s : State) (q : Reg) : (s.afterOpcode).reg q = s.reg q := rfl
@[simp] theorem State.reg_clearRsel (s : State) (q : Reg) : (s.clearRsel).reg q = s.reg q := rfl
@[simp] theorem State.reg_addIndex (s : State) (r : Reg) (q : Reg) : (s.addIndex r).reg q = s.reg q := rfl

/-! ### inactiveBank after an update that does not concern it -/

@[simp] theorem State.inactiveBank_psuWrite (s : State) (v : Byte) : (s.psuWrite v).inactiveBank = s.inactiveBank := rfl
@[simp] theorem State.inactiveBank_setIi (s : State) (b : Bool) : (s.setIi b).inactiveBank = s.inactiveBank := rfl
@[simp] theorem State.inactiveBank_setPc (s : State) (a : Addr) : (s.setPc a).inactiveBank = s.inactiveBank := rfl
@[simp] theorem State.inactiveBank_advance (s : State) (n : BitVec 13) : (s.advance n).inactiveBank = s.inactiveBank := rfl
@[simp] theorem State.inactiveBank_jump (s : State) : (s.jump).inactiveBank = s.inactiveBank := rfl
@[simp] theorem State.inactiveBank_record (s : State) (x : Transaction) : (s.record x).inactiveBank = s.inactiveBank := rfl
@[simp] theorem State.inactiveBank_dataRead (s : State) (a : Addr) : (s.dataRead a).inactiveBank = s.inactiveBank := rfl
@[simp] theorem State.inactiveBank_memWrite (s : State) (a : Addr) (v : Byte) : (s.memWrite a v).inactiveBank = s.inactiveBank := rfl
@[simp] theorem State.inactiveBank_nextArg (s : State) : (s.nextArg).inactiveBank = s.inactiveBank := rfl
@[simp] theorem State.inactiveBank_portRead (s : State) (p : Port) : (s.portRead p).inactiveBank = s.inactiveBank := rfl
@[simp] theorem State.inactiveBank_portWrite (s : State) (p : Port) (v : Byte) : (s.portWrite p v).inactiveBank = s.inactiveBank := rfl
@[simp] theorem State.inactiveBank_intAck (s : State) : (s.intAck).inactiveBank = s.inactiveBank := rfl
@[simp] theorem State.inactiveBank_setEa (s : State) (a : Addr) : (s.setEa a).inactiveBank = s.inactiveBank := rfl
@[simp] theorem State.inactiveBank_indirect (s : State) : (s.indirect).inactiveBank = s.inactiveBank := rfl
@[simp] theorem State.inactiveBank_push (s : State) (a : Addr) : (s.push a).inactiveBank = s.inactiveBank := rfl
@[simp] theorem State.inactiveBank_popJump (s : State) : (s.popJump).inactiveBank = s.inactiveBank := rfl
@[simp] theorem State.inactiveBank_afterOpcode (s : State) : (s.afterOpcode).inactiveBank = s.inactiveBank := rfl
@[simp] theorem State.inactiveBank_clearRsel (s : State) : (s.clearRsel).inactiveBank = s.inactiveBank := rfl
@[simp] theorem State.inactiveBank_addIndex (s : State) (r : Reg) : (s.addIndex r).inactiveBank = s.inactiveBank := rfl

/-! ### cc after an update that does not concern it -/

@[simp] theorem State.cc_psuWrite (s : State) (v : Byte) : (s.psuWrite v).cc = s.cc := rfl
@[simp] theorem State.cc_setIi (s : State) (b : Bool) : (s.setIi b).cc = s.cc := rfl
@[simp] theorem State.cc_setPc (s : State) (a : Addr) : (s.setPc a).cc = s.cc := rfl
@[simp] theorem State.cc_advance (s : State) (n : BitVec 13) : (s.advance n).cc = s.cc := rfl
@[simp] theorem State.cc_jump (s : State) : (s.jump).cc = s.cc := rfl
@[simp] theorem State.cc_record (s : State) (x : Transaction) : (s.record x).cc = s.cc := rfl
@[simp] theorem State.cc_dataRead (s : State) (a : Addr) : (s.dataRead a).cc = s.cc := rfl
@[simp] theorem State.cc_memWrite (s : State) (a : Addr) (v : Byte) : (s.memWrite a v).cc = s.cc := rfl
@[simp] theorem State.cc_nextArg (s : State) : (s.nextArg).cc = s.cc := rfl
@[simp] theorem State.cc_portRead (s : State) (p : Port) : (s.portRead p).cc = s.cc := rfl
@[simp] theorem State.cc_portWrite (s : State) (p : Port) (v : Byte) : (s.portWrite p v).cc = s.cc := rfl
@[simp] theorem State.cc_intAck (s : State) : (s.intAck).cc = s.cc := rfl
@[simp] theorem State.cc_setEa (s : State) (a : Addr) : (s.setEa a).cc = s.cc := rfl
@[simp] theorem State.cc_indirect (s : State) : (s.indirect).cc = s.cc := rfl
@[simp] theorem State.cc_push (s : State) (a : Addr) : (s.push a).cc = s.cc := rfl
@[simp] theorem State.cc_popJump (s : State) : (s.popJump).cc = s.cc := rfl
@[simp] theorem State.cc_afterOpcode (s : State) : (s.afterOpcode).cc = s.cc := rfl
@[simp] theorem State.cc_clearRsel (s : State) : (s.clearRsel).cc = s.cc := rfl
@[simp] theorem State.cc_addIndex (s : State) (r : Reg) : (s.addIndex r).cc = s.cc := rfl
@[simp] theorem State.cc_setReg (s : State) (r : Reg) (v : Byte) : (s.setReg r v).cc = s.cc := by
  cases r <;> simp [State.cc]

/-! ### psuRead after an update that does not concern it -/

@[simp] theorem State.psuRead_setCc (s : State) (c : BitVec 2) : (s.setCc c).psuRead = s.psuRead := rfl
@[simp] theorem State.psuRead_setPc (s : State) (a : Addr) : (s.setPc a).psuRead = s.psuRead := rfl
@[simp] theorem State.psuRead_advance (s : State) (n : BitVec 13) : (s.advance n).psuRead = s.psuRead := rfl
@[simp] theorem State.psuRead_jump (s : State) : (s.jump).psuRead = s.psuRead := rfl
@[simp] theorem State.psuRead_record (s : State) (x : Transaction) : (s.record x).psuRead = s.psuRead := rfl
@[simp] theorem State.psuRead_dataRead (s : State) (a : Addr) : (s.dataRead a).psuRead = s.psuRead := rfl
@[simp] theorem State.psuRead_memWrite (s : State) (a : Addr) (v : Byte) : (s.memWrite a v).psuRead = s.psuRead := rfl
@[simp] theorem State.psuRead_nextArg (s : State) : (s.nextArg).psuRead = s.psuRead := rfl
@[simp] theorem State.psuRead_portRead (s : State) (p : Port) : (s.portRead p).psuRead = s.psuRead := rfl
@[simp] theorem State.psuRead_portWrite (s : State) (p : Port) (v : Byte) : (s.portWrite p v).psuRead = s.psuRead := rfl
@[simp] theorem State.psuRead_intAck (s : State) : (s.intAck).psuRead = s.psuRead := rfl
@[simp] theorem State.psuRead_setEa (s : State) (a : Addr) : (s.setEa a).psuRead = s.psuRead := rfl
@[simp] theorem State.psuRead_indirect (s : State) : (s.indirect).psuRead = s.psuRead := rfl
@[simp] theorem State.psuRead_afterOpcode (s : State) : (s.afterOpcode).psuRead = s.psuRead := rfl
@[simp] theorem State.psuRead_clearRsel (s : State) : (s.clearRsel).psuRead = s.psuRead := rfl
@[simp] theorem State.psuRead_addIndex (s : State) (r : Reg) : (s.addIndex r).psuRead = s.psuRead := rfl
@[simp] theorem State.psuRead_setReg (s : State) (r : Reg) (v : Byte) : (s.setReg r v).psuRead = s.psuRead := by
  cases r <;> simp [State.psuRead]
@[simp] theorem State.psuRead_setPsl (s : State) (v : Byte) : (s.setPsl v).psuRead = s.psuRead := rfl

/-! ### sp after an update that does not concern it -/

@[simp] theorem State.sp_setCc (s : State) (c : BitVec 2) : (s.setCc c).sp = s.sp := rfl
@[simp] theorem State.sp_setPc (s : State) (a : Addr) : (s.setPc a).sp = s.sp := rfl
@[simp] theorem State.sp_advance (s : State) (n : BitVec 13) : (s.advance n).sp = s.sp := rfl
@[simp] theorem State.sp_jump (s : State) : (s.jump).sp = s.sp := rfl
@[simp] theorem State.sp_record (s : State) (x : Transaction) : (s.record x).sp = s.sp := rfl
@[simp] theorem State.sp_dataRead (s : State) (a : Addr) : (s.dataRead a).sp = s.sp := rfl
@[simp] theorem State.sp_memWrite (s : State) (a : Addr) (v : Byte) : (s.memWrite a v).sp = s.sp := rfl
@[simp] theorem State.sp_nextArg (s : State) : (s.nextArg).sp = s.sp := rfl
@[simp] theorem State.sp_portRead (s : State) (p : Port) : (s.portRead p).sp = s.sp := rfl
@[simp] theorem State.sp_portWrite (s : State) (p : Port) (v : Byte) : (s.portWrite p v).sp = s.sp := rfl
@[simp] theorem State.sp_intAck (s : State) : (s.intAck).sp = s.sp := rfl
@[simp] theorem State.sp_setEa (s : State) (a : Addr) : (s.setEa a).sp = s.sp := rfl
@[simp] theorem State.sp_indirect (s : State) : (s.indirect).sp = s.sp := rfl
@[simp] theorem State.sp_afterOpcode (s : State) : (s.afterOpcode).sp = s.sp := rfl
@[simp] theorem State.sp_clearRsel (s : State) : (s.clearRsel).sp = s.sp := rfl
@[simp] theorem State.sp_addIndex (s : State) (r : Reg) : (s.addIndex r).sp = s.sp := rfl
@[simp] theorem State.sp_setReg (s : State) (r : Reg) (v : Byte) : (s.setReg r v).sp = s.sp := by
  cases r <;> simp [State.sp]
@[simp] theorem State.sp_setPsl (s : State) (v : Byte) : (s.setPsl v).sp = s.sp := rfl

/-! ### inhibited after an update that does not concern it -/

@[simp] theorem State.inhibited_setCc (s : State) (c : BitVec 2) : (s.setCc c).inhibited = s.inhibited := rfl
@[simp] theorem State.inhibited_setPc (s : State) (a : Addr) : (s.setPc a).inhibited = s.inhibited := rfl
@[simp] theorem State.inhibited_advance (s : State) (n : BitVec 13) : (s.advance n).inhibited = s.inhibited := rfl
@[simp] theorem State.inhibited_jump (s : State) : (s.jump).inhibited = s.inhibited := rfl
@[simp] theorem State.inhibited_record (s : State) (x : Transaction) : (s.record x).inhibited = s.inhibited := rfl
@[simp] theorem State.inhibited_dataRead (s : State) (a : Addr) : (s.dataRead a).inhibited = s.inhibited := rfl
@[simp] theorem State.inhibited_memWrite (s : State) (a : Addr) (v : Byte) : (s.memWrite a v).inhibited = s.inhibited := rfl
@[simp] theorem State.inhibited_nextArg (s : State) : (s.nextArg).inhibited = s.inhibited := rfl
@[simp] theorem State.inhibited_portRead (s : State) (p : Port) : (s.portRead p).inhibited = s.inhibited := rfl
@[simp] theorem State.inhibited_portWrite (s : State) (p : Port) (v : Byte) : (s.portWrite p v).inhibited = s.inhibited := rfl
@[simp] theorem State.inhibited_intAck (s : State) : (s.intAck).inhibited = s.inhibited := rfl
@[simp] theorem State.inhibited_setEa (s : State) (a : Addr) : (s.setEa a).inhibited = s.inhibited := rfl
@[simp] theorem State.inhibited_indirect (s : State) : (s.indirect).inhibited = s.inhibited := rfl
@[simp] theorem State.inhibited_afterOpcode (s : State) : (s.afterOpcode).inhibited = s.inhibited := rfl
@[simp] theorem State.inhibited_clearRsel (s : State) : (s.clearRsel).inhibited = s.inhibited := rfl
@[simp] theorem State.inhibited_addIndex (s : State) (r : Reg) : (s.addIndex r).inhibited = s.inhibited := rfl
@[simp] theorem State.inhibited_setReg (s : State) (r : Reg) (v : Byte) : (s.setReg r v).inhibited = s.inhibited := by
  cases r <;> simp [State.inhibited]
@[simp] theorem State.inhibited_setPsl (s : State) (v : Byte) : (s.setPsl v).inhibited = s.inhibited := rfl

/-! ### pc after an update that does not concern it -/

@[simp] theorem State.pc_setCc (s : State) (c : BitVec 2) : (s.setCc c).pc = s.pc := rfl
@[simp] theorem State.pc_psuWrite (s : State) (v : Byte) : (s.psuWrite v).pc = s.pc := rfl
@[simp] theorem State.pc_setIi (s : State) (b : Bool) : (s.setIi b).pc = s.pc := rfl
@[simp] theorem State.pc_record (s : State) (x : Transaction) : (s.record x).pc = s.pc := rfl
@[simp] theorem State.pc_dataRead (s : State) (a : Addr) : (s.dataRead a).pc = s.pc := rfl
@[simp] theorem State.pc_memWrite (s : State) (a : Addr) (v : Byte) : (s.memWrite a v).pc = s.pc := rfl
@[simp] theorem State.pc_portRead (s : State) (p : Port) : (s.portRead p).pc = s.pc := rfl
@[simp] theorem State.pc_portWrite (s : State) (p : Port) (v : Byte) : (s.portWrite p v).pc = s.pc := rfl
@[simp] theorem State.pc_intAck (s : State) : (s.intAck).pc = s.pc := rfl
@[simp] theorem State.pc_setEa (s : State) (a : Addr) : (s.setEa a).pc = s.pc := rfl
@[simp] theorem State.pc_indirect (s : State) : (s.indirect).pc = s.pc := rfl
@[simp] theorem State.pc_push (s : State) (a : Addr) : (s.push a).pc = s.pc := rfl
@[simp] theorem State.pc_clearRsel (s : State) : (s.clearRsel).pc = s.pc := rfl
@[simp] theorem State.pc_addIndex (s : State) (r : Reg) : (s.addIndex r).pc = s.pc := rfl
@[simp] theorem State.pc_setReg (s : State) (r : Reg) (v : Byte) : (s.setReg r v).pc = s.pc := by
  cases r <;> simp [State.pc]
@[simp] theorem State.pc_setPsl (s : State) (v : Byte) : (s.setPsl v).pc = s.pc := rfl

/-! ### peek after an update that does not concern it -/

@[simp] theorem State.peek_setCc (s : State) (c : BitVec 2) (x : Addr) : (s.setCc c).peek x = s.peek x := rfl
@[simp] theorem State.peek_psuWrite (s : State) (v : Byte) (x : Addr) : (s.psuWrite v).peek x = s.peek x := rfl
@[simp] theorem State.peek_setIi (s : State) (b : Bool) (x : Addr) : (s.setIi b).peek x = s.peek x := rfl
@[simp] theorem State.peek_setPc (s : State) (a : Addr) (x : Addr) : (s.setPc a).peek x = s.peek x := rfl
@[simp] theorem State.peek_advance (s : State) (n : BitVec 13) (x : Addr) : (s.advance n).peek x = s.peek x := rfl
@[simp] theorem State.peek_jump (s : State) (x : Addr) : (s.jump).peek x = s.peek x := rfl
@[simp] theorem State.peek_record (s : State) (t : Transaction) (x : Addr) : (s.record t).peek x = s.peek x := rfl
@[simp] theorem State.peek_dataRead (s : State) (a : Addr) (x : Addr) : (s.dataRead a).peek x = s.peek x := rfl
@[simp] theorem State.peek_nextArg (s : State) (x : Addr) : (s.nextArg).peek x = s.peek x := rfl
@[simp] theorem State.peek_portRead (s : State) (p : Port) (x : Addr) : (s.portRead p).peek x = s.peek x := rfl
@[simp] theorem State.peek_portWrite (s : State) (p : Port) (v : Byte) (x : Addr) : (s.portWrite p v).peek x = s.peek x := rfl
@[simp] theorem State.peek_intAck (s : State) (x : Addr) : (s.intAck).peek x = s.peek x := rfl
@[simp] theorem State.peek_setEa (s : State) (a : Addr) (x : Addr) : (s.setEa a).peek x = s.peek x := rfl
@[simp] theorem State.peek_indirect (s : State) (x : Addr) : (s.indirect).peek x = s.peek x := rfl
@[simp] theorem State.peek_push (s : State) (a : Addr) (x : Addr) : (s.push a).peek x = s.peek x := rfl
@[simp] theorem State.peek_popJump (s : State) (x : Addr) : (s.popJump).peek x = s.peek x := rfl
@[simp] theorem State.peek_afterOpcode (s : State) (x : Addr) : (s.afterOpcode).peek x = s.peek x := rfl
@[simp] theorem State.peek_clearRsel (s : State) (x : Addr) : (s.clearRsel).peek x = s.peek x := rfl
@[simp] theorem State.peek_addIndex (s : State) (r : Reg) (x : Addr) : (s.addIndex r).peek x = s.peek x := rfl
@[simp] theorem State.peek_setReg (s : State) (r : Reg) (v : Byte) (x : Addr) : (s.setReg r v).peek x = s.peek x := by
  cases r <;> simp [State.peek]
@[simp] theorem State.peek_setPsl (s : State) (v : Byte) (x : Addr) : (s.setPsl v).peek x = s.peek x := rfl

/-! ### pointerAt after an update that does not concern it -/

@[simp] theorem State.pointerAt_setCc (s : State) (c : BitVec 2) (x : Addr) : (s.setCc c).pointerAt x = s.pointerAt x := rfl
@[simp] theorem State.pointerAt_psuWrite (s : State) (v : Byte) (x : Addr) : (s.psuWrite v).pointerAt x = s.pointerAt x := rfl
@[simp] theorem State.pointerAt_setIi (s : State) (b : Bool) (x : Addr) : (s.setIi b).pointerAt x = s.pointerAt x := rfl
@[simp] theorem State.pointerAt_setPc (s : State) (a : Addr) (x : Addr) : (s.setPc a).pointerAt x = s.pointerAt x := rfl
@[simp] theorem State.pointerAt_advance (s : State) (n : BitVec 13) (x : Addr) : (s.advance n).pointerAt x = s.pointerAt x := rfl
@[simp] theorem State.pointerAt_jump (s : State) (x : Addr) : (s.jump).pointerAt x = s.pointerAt x := rfl
@[simp] theorem State.pointerAt_record (s : State) (t : Transaction) (x : Addr) : (s.record t).pointerAt x = s.pointerAt x := rfl
@[simp] theorem State.pointerAt_dataRead (s : State) (a : Addr) (x : Addr) : (s.dataRead a).pointerAt x = s.pointerAt x := rfl
@[simp] theorem State.pointerAt_nextArg (s : State) (x : Addr) : (s.nextArg).pointerAt x = s.pointerAt x := rfl
@[simp] theorem State.pointerAt_portRead (s : State) (p : Port) (x : Addr) : (s.portRead p).pointerAt x = s.pointerAt x := rfl
@[simp] theorem State.pointerAt_portWrite (s : State) (p : Port) (v : Byte) (x : Addr) : (s.portWrite p v).pointerAt x = s.pointerAt x := rfl
@[simp] theorem State.pointerAt_intAck (s : State) (x : Addr) : (s.intAck).pointerAt x = s.pointerAt x := rfl
@[simp] theorem State.pointerAt_setEa (s : State) (a : Addr) (x : Addr) : (s.setEa a).pointerAt x = s.pointerAt x := rfl
@[simp] theorem State.pointerAt_indirect (s : State) (x : Addr) : (s.indirect).pointerAt x = s.pointerAt x := rfl
@[simp] theorem State.pointerAt_push (s : State) (a : Addr) (x : Addr) : (s.push a).pointerAt x = s.pointerAt x := rfl
@[simp] theorem State.pointerAt_popJump (s : State) (x : Addr) : (s.popJump).pointerAt x = s.pointerAt x := rfl
@[simp] theorem State.pointerAt_afterOpcode (s : State) (x : Addr) : (s.afterOpcode).pointerAt x = s.pointerAt x := rfl
@[simp] theorem State.pointerAt_clearRsel (s : State) (x : Addr) : (s.clearRsel).pointerAt x = s.pointerAt x := rfl
@[simp] theorem State.pointerAt_addIndex (s : State) (r : Reg) (x : Addr) : (s.addIndex r).pointerAt x = s.pointerAt x := rfl
@[simp] theorem State.pointerAt_setReg (s : State) (r : Reg) (v : Byte) (x : Addr) : (s.setReg r v).pointerAt x = s.pointerAt x := by
  cases r <;> simp [State.pointerAt, State.peek]
@[simp] theorem State.pointerAt_setPsl (s : State) (v : Byte) (x : Addr) : (s.setPsl v).pointerAt x = s.pointerAt x := rfl

/-! ### stackTop after an update that does not concern it -/

@[simp] theorem State.stackTop_setCc (s : State) (c : BitVec 2) : (s.setCc c).stackTop = s.stackTop := rfl
@[simp] theorem State.stackTop_setPc (s : State) (a : Addr) : (s.setPc a).stackTop = s.stackTop := rfl
@[simp] theorem State.stackTop_advance (s : State) (n : BitVec 13) : (s.advance n).stackTop = s.stackTop := rfl
@[simp] theorem State.stackTop_jump (s : State) : (s.jump).stackTop = s.stackTop := rfl
@[simp] theorem State.stackTop_record (s : State) (x : Transaction) : (s.record x).stackTop = s.stackTop := rfl
@[simp] theorem State.stackTop_dataRead (s : State) (a : Addr) : (s.dataRead a).stackTop = s.stackTop := rfl
@[simp] theorem State.stackTop_memWrite (s : State) (a : Addr) (v : Byte) : (s.memWrite a v).stackTop = s.stackTop := rfl
@[simp] theorem State.stackTop_nextArg (s : State) : (s.nextArg).stackTop = s.stackTop := rfl
@[simp] theorem State.stackTop_portRead (s : State) (p : Port) : (s.portRead p).stackTop = s.stackTop := rfl
@[simp] theorem State.stackTop_portWrite (s : State) (p : Port) (v : Byte) : (s.portWrite p v).stackTop = s.stackTop := rfl
@[simp] theorem State.stackTop_intAck (s : State) : (s.intAck).stackTop = s.stackTop := rfl
@[simp] theorem State.stackTop_setEa (s : State) (a : Addr) : (s.setEa a).stackTop = s.stackTop := rfl
@[simp] theorem State.stackTop_indirect (s : State) : (s.indirect).stackTop = s.stackTop := rfl
@[simp] theorem State.stackTop_afterOpcode (s : State) : (s.afterOpcode).stackTop = s.stackTop := rfl
@[simp] theorem State.stackTop_clearRsel (s : State) : (s.clearRsel).stackTop = s.stackTop := rfl
@[simp] theorem State.stackTop_addIndex (s : State) (r : Reg) : (s.addIndex r).stackTop = s.stackTop := rfl
@[simp] theorem State.stackTop_setReg (s : State) (r : Reg) (v : Byte) : (s.setReg r v).stackTop = s.stackTop := by
  simp [State.stackTop, State.sp]
@[simp] theorem State.stackTop_setPsl (s : State) (v : Byte) : (s.setPsl v).stackTop = s.stackTop := rfl

/-! ### portByte after an update that does not concern it -/

@[simp] theorem State.portByte_setCc (s : State) (c : BitVec 2) : (s.setCc c).portByte = s.portByte := rfl
@[simp] theorem State.portByte_psuWrite (s : State) (v : Byte) : (s.psuWrite v).portByte = s.portByte := rfl
@[simp] theorem State.portByte_setIi (s : State) (b : Bool) : (s.setIi b).portByte = s.portByte := rfl
@[simp] theorem State.portByte_setPc (s : State) (a : Addr) : (s.setPc a).portByte = s.portByte := rfl
@[simp] theorem State.portByte_advance (s : State) (n : BitVec 13) : (s.advance n).portByte = s.portByte := rfl
@[simp] theorem State.portByte_jump (s : State) : (s.jump).portByte = s.portByte := rfl
@[simp] theorem State.portByte_record (s : State) (x : Transaction) : (s.record x).portByte = s.portByte := rfl
@[simp] theorem State.portByte_dataRead (s : State) (a : Addr) : (s.dataRead a).portByte = s.portByte := rfl
@[simp] theorem State.portByte_memWrite (s : State) (a : Addr) (v : Byte) : (s.memWrite a v).portByte = s.portByte := rfl
@[simp] theorem State.portByte_nextArg (s : State) : (s.nextArg).portByte = s.portByte := rfl
@[simp] theorem State.portByte_portWrite (s : State) (p : Port) (v : Byte) : (s.portWrite p v).portByte = s.portByte := rfl
@[simp] theorem State.portByte_setEa (s : State) (a : Addr) : (s.setEa a).portByte = s.portByte := rfl
@[simp] theorem State.portByte_indirect (s : State) : (s.indirect).portByte = s.portByte := rfl
@[simp] theorem State.portByte_push (s : State) (a : Addr) : (s.push a).portByte = s.portByte := rfl
@[simp] theorem State.portByte_popJump (s : State) : (s.popJump).portByte = s.portByte := rfl
@[simp] theorem State.portByte_afterOpcode (s : State) : (s.afterOpcode).portByte = s.portByte := rfl
@[simp] theorem State.portByte_clearRsel (s : State) : (s.clearRsel).portByte = s.portByte := rfl
@[simp] theorem State.portByte_addIndex (s : State) (r : Reg) : (s.addIndex r).portByte = s.portByte := rfl
@[simp] theorem State.portByte_setReg (s : State) (r : Reg) (v : Byte) : (s.setReg r v).portByte = s.portByte := by
  cases r <;> simp [State.portByte]
@[simp] theorem State.portByte_setPsl (s : State) (v : Byte) : (s.setPsl v).portByte = s.portByte := rfl

/-! ### vectorByte after an update that does not concern it -/

@[simp] theorem State.vectorByte_setCc (s : State) (c : BitVec 2) : (s.setCc c).vectorByte = s.vectorByte := rfl
@[simp] theorem State.vectorByte_psuWrite (s : State) (v : Byte) : (s.psuWrite v).vectorByte = s.vectorByte := rfl
@[simp] theorem State.vectorByte_setIi (s : State) (b : Bool) : (s.setIi b).vectorByte = s.vectorByte := rfl
@[simp] theorem State.vectorByte_setPc (s : State) (a : Addr) : (s.setPc a).vectorByte = s.vectorByte := rfl
@[simp] theorem State.vectorByte_advance (s : State) (n : BitVec 13) : (s.advance n).vectorByte = s.vectorByte := rfl
@[simp] theorem State.vectorByte_jump (s : State) : (s.jump).vectorByte = s.vectorByte := rfl
@[simp] theorem State.vectorByte_record (s : State) (x : Transaction) : (s.record x).vectorByte = s.vectorByte := rfl
@[simp] theorem State.vectorByte_dataRead (s : State) (a : Addr) : (s.dataRead a).vectorByte = s.vectorByte := rfl
@[simp] theorem State.vectorByte_memWrite (s : State) (a : Addr) (v : Byte) : (s.memWrite a v).vectorByte = s.vectorByte := rfl
@[simp] theorem State.vectorByte_nextArg (s : State) : (s.nextArg).vectorByte = s.vectorByte := rfl
@[simp] theorem State.vectorByte_portWrite (s : State) (p : Port) (v : Byte) : (s.portWrite p v).vectorByte = s.vectorByte := rfl
@[simp] theorem State.vectorByte_setEa (s : State) (a : Addr) : (s.setEa a).vectorByte = s.vectorByte := rfl
@[simp] theorem State.vectorByte_indirect (s : State) : (s.indirect).vectorByte = s.vectorByte := rfl
@[simp] theorem State.vectorByte_push (s : State) (a : Addr) : (s.push a).vectorByte = s.vectorByte := rfl
@[simp] theorem State.vectorByte_popJump (s : State) : (s.popJump).vectorByte = s.vectorByte := rfl
@[simp] theorem State.vectorByte_afterOpcode (s : State) : (s.afterOpcode).vectorByte = s.vectorByte := rfl
@[simp] theorem State.vectorByte_clearRsel (s : State) : (s.clearRsel).vectorByte = s.vectorByte := rfl
@[simp] theorem State.vectorByte_addIndex (s : State) (r : Reg) : (s.addIndex r).vectorByte = s.vectorByte := rfl
@[simp] theorem State.vectorByte_setReg (s : State) (r : Reg) (v : Byte) : (s.setReg r v).vectorByte = s.vectorByte := by
  cases r <;> simp [State.vectorByte]
@[simp] theorem State.vectorByte_setPsl (s : State) (v : Byte) : (s.setPsl v).vectorByte = s.vectorByte := rfl

/-! ### Registers -/

@[simp] theorem State.activeBank_setCc (s : State) (c : BitVec 2) : (s.setCc c).activeBank = s.activeBank := by
  simp [State.activeBank]

@[simp] theorem State.reg_setCc (s : State) (c : BitVec 2) (q : Reg) : (s.setCc c).reg q = s.reg q := by
  cases q <;> simp [State.reg]

@[simp] theorem State.inactiveBank_setCc (s : State) (c : BitVec 2) : (s.setCc c).inactiveBank = s.inactiveBank := by
  simp [State.inactiveBank]

/-- A new PSL that keeps RS keeps what the registers name. -/
theorem State.reg_setPsl_of_rs (s : State) {v : Byte} (h : pslRs v = pslRs s.psl) (q : Reg) :
    (s.setPsl v).reg q = s.reg q := by
  cases q <;> simp [State.reg, State.activeBank, h]

theorem State.inactiveBank_setPsl_of_rs (s : State) {v : Byte} (h : pslRs v = pslRs s.psl) :
    (s.setPsl v).inactiveBank = s.inactiveBank := by
  simp [State.inactiveBank, h]

/-- A register reads as it was last written (R12). -/
@[simp] theorem State.reg_setReg (s : State) (r : Reg) (v : Byte) : (s.setReg r v).reg r = v := by
  cases r <;> by_cases h : pslRs s.psl <;> simp [State.setReg, State.reg, State.setActiveBank, State.activeBank, h]

/-- Writing a register changes no other (R12). -/
theorem State.reg_setReg_ne (s : State) {r q : Reg} (v : Byte) (hne : q ≠ r) : (s.setReg r v).reg q = s.reg q := by
  cases r <;> cases q <;>
    first
      | exact absurd rfl hne
      | (by_cases h : pslRs s.psl <;> simp [State.setReg, State.reg, State.setActiveBank, State.activeBank, h])

/-- No register write reaches the inactive bank (R12). -/
@[simp] theorem State.inactiveBank_setReg (s : State) (r : Reg) (v : Byte) :
    (s.setReg r v).inactiveBank = s.inactiveBank := by
  cases r <;> by_cases h : pslRs s.psl <;> simp [State.setReg, State.inactiveBank, State.setActiveBank, h]

/-! ### Condition code, program counter, stack -/

@[simp] theorem State.cc_setCc (s : State) (c : BitVec 2) : (s.setCc c).cc = c := by
  simp [State.cc]

@[simp] theorem State.pc_setPc (s : State) (a : Addr) : (s.setPc a).pc = a := by
  simp [State.pc]

@[simp] theorem State.pc_jump (s : State) : s.jump.pc = s.ea := by
  simp [State.jump]

@[simp] theorem State.pc_advance (s : State) (n : BitVec 13) : (s.advance n).pc = wrapAdd s.pc n := by
  simp [State.pc, wrapAdd]

@[simp] theorem State.pc_nextArg (s : State) : s.nextArg.pc = wrapAdd s.pc 1 := by
  simp [State.pc, wrapAdd]

@[simp] theorem State.pc_afterOpcode (s : State) : s.afterOpcode.pc = wrapAdd s.pc 1 := by
  simp [State.pc, wrapAdd]

@[simp] theorem State.sp_push (s : State) (a : Addr) : (s.push a).sp = s.sp + 1 := by
  simp [State.sp]

@[simp] theorem State.sp_popJump (s : State) : s.popJump.sp = s.sp - 1 := by
  simp [State.sp]

/-- A pop returns what the push before it stored (R28). -/
@[simp] theorem State.stackTop_push (s : State) (a : Addr) : (s.push a).stackTop = a := by
  simp [State.stackTop]

/-! ### Memory -/

/-- The stored byte is read back, in a canonical memory (R50). -/
theorem State.peek_memWrite (s : State) (a : Addr) (v : Byte) (hw : s.mem.wf = true) : (s.memWrite a v).peek a = v :=
  Memory.read_write_eq s.mem a.toNat v hw

/-- A store changes no other byte (R108). -/
theorem State.peek_memWrite_ne (s : State) {a x : Addr} (v : Byte) (h : x ≠ a) : (s.memWrite a v).peek x = s.peek x :=
  Memory.read_write_ne s.mem v fun e => h (BitVec.eq_of_toNat_eq e)

/-- A store keeps the canonical form of the memory. -/
theorem State.memWrite_wf (s : State) (a : Addr) (v : Byte) (hw : s.mem.wf = true) : (s.memWrite a v).mem.wf = true :=
  Memory.write_wf s.mem v hw a.isLt

/-! ### The effective-address calculator -/

/-- Everything `resolve` does (R82, R84): EA, and two reads when the indirect bit is 1. -/
theorem State.resolve_eq (s : State) (a : Addr) (ind : Bool) :
    s.resolve a ind =
      { s with
        ea := if ind then s.pointerAt a else a
        bus := if ind then .dataRead (nextInPage a) :: .dataRead a :: s.bus else s.bus } := by
  cases ind <;> rfl

/-- Everything `rel_ea()` does (R82). -/
theorem State.relEa_eq (s : State) (a : RelArg) :
    s.relEa a =
      { s with
        offset := s.offset + 1
        ea := if a.ind then s.pointerAt (relTarget s.page (s.offset + 1) a.disp)
              else relTarget s.page (s.offset + 1) a.disp
        bus :=
          (if a.ind then
            [.dataRead (nextInPage (relTarget s.page (s.offset + 1) a.disp)),
              .dataRead (relTarget s.page (s.offset + 1) a.disp)]
          else []) ++ .fetchArg s.pc :: s.bus } := by
  obtain ⟨ind, disp⟩ := a
  cases ind <;> rfl

/-- Everything `zero_ea()` does (R83). -/
theorem State.zeroEa_eq (s : State) (a : RelArg) :
    s.zeroEa a =
      { s with
        offset := s.offset + 1
        ea := if a.ind then s.pointerAt (zeroTarget a.disp) else zeroTarget a.disp
        bus :=
          (if a.ind then [.dataRead (nextInPage (zeroTarget a.disp)), .dataRead (zeroTarget a.disp)] else []) ++
            .fetchArg s.pc :: s.bus } := by
  obtain ⟨ind, disp⟩ := a
  cases ind <;> rfl

/-- Everything `bra_ea()` does (R89). -/
theorem State.braEa_eq (s : State) (a : BraArg) :
    s.braEa a =
      { s with
        offset := s.offset + 1 + 1
        ea := if a.ind then s.pointerAt a.addr else a.addr
        bus :=
          (if a.ind then [.dataRead (nextInPage a.addr), .dataRead a.addr] else []) ++
            .fetchArg s.nextArg.pc :: .fetchArg s.pc :: s.bus } := by
  obtain ⟨ind, addr⟩ := a
  rw [State.braEa, State.resolve_eq]
  cases ind <;> rfl

/-- Everything the first two steps of `abs_ea()` do (R85, R86). -/
theorem State.absBase_eq (s : State) (a : AbsArg) :
    s.absBase a =
      { s with
        offset := s.offset + 1 + 1
        ea := if a.ind then s.pointerAt (mkAddr s.page a.addr) else mkAddr s.page a.addr
        bus :=
          (if a.ind then [.dataRead (nextInPage (mkAddr s.page a.addr)), .dataRead (mkAddr s.page a.addr)] else []) ++
            .fetchArg s.nextArg.pc :: .fetchArg s.pc :: s.bus } := by
  obtain ⟨ind, idx, addr⟩ := a
  rw [State.absBase, State.resolve_eq]
  cases ind <;> rfl

end Sys2Proof.Machine
end

