-- ==== Sys2Proof/Laws/Frames.lean ====
section
/-!
SUPPORT. One lemma per shared operation, in the words of Sys2Proof/Safety.lean: what each calculator, operand and result
operation may change.
-/

namespace Sys2Proof.Machine

/-- A byte masked with ones. -/
@[simp] theorem and_ones (v : Byte) : v &&& 255#8 = v := by
  revert v; decide +kernel

@[simp] theorem ones_and (v : Byte) : 255#8 &&& v = v := by
  revert v; decide +kernel

/-! ### Frames compose -/

theorem Frame.refl (regs : List Reg) (mask : Byte) (s : State) : Frame regs mask s s :=
  ⟨⟨fun _ _ => rfl, rfl⟩, rfl, ⟨rfl, rfl⟩, fun _ => rfl, ⟨rfl, rfl⟩, rfl, rfl, rfl, rfl, rfl, rfl, rfl⟩

/-- A larger list of registers or a larger mask allows more. -/
theorem Frame.mono {regs regs' : List Reg} {mask mask' : Byte} {s t : State} (h : Frame regs mask s t)
    (hr : ∀ q, q ∈ regs → q ∈ regs') (hm : ~~~mask' = ~~~mask &&& ~~~mask') : Frame regs' mask' s t := by
  obtain ⟨⟨h1, h2⟩, h3, h4⟩ := h
  refine ⟨⟨fun q hq => h1 q fun hq' => hq (hr q hq'), h2⟩, ?_, h4⟩
  rw [PslKept, hm, ← BitVec.and_assoc, h3, BitVec.and_assoc]

theorem Frame.trans {regs : List Reg} {mask : Byte} {s t u : State} (h : Frame regs mask s t)
    (k : Frame regs mask t u) : Frame regs mask s u := by
  obtain ⟨⟨h1, h2⟩, h3, ⟨h4, h5⟩, h6, ⟨h7, h8⟩, h9, h10, h11, h12, h13, h14, h15⟩ := h
  obtain ⟨⟨k1, k2⟩, k3, ⟨k4, k5⟩, k6, ⟨k7, k8⟩, k9, k10, k11, k12, k13, k14, k15⟩ := k
  exact ⟨⟨fun q hq => (k1 q hq).trans (h1 q hq), k2.trans h2⟩, k3.trans h3, ⟨k4.trans h4, k5.trans h5⟩,
    fun a => (k6 a).trans (h6 a), ⟨k7.trans h7, k8.trans h8⟩, k9.trans h9, k10.trans h10, k11.trans h11,
    k12.trans h12, k13.trans h13, k14.trans h14, k15.trans h15⟩

/-- A frame with an empty mask keeps PSL. -/
theorem Frame.psl {regs : List Reg} {s t : State} (h : Frame regs 0 s t) : t.psl = s.psl := by
  have := h.2.1
  simpa [PslKept] using this

/-- The program counter, EA, rsel and the record are outside every frame. -/
theorem frame_control (regs : List Reg) (mask : Byte) (s : State) (p : BitVec 2) (o : BitVec 13) (e : Addr)
    (k : BitVec 2) (b : List Transaction) :
    Frame regs mask s { s with page := p, offset := o, ea := e, rsel := k, bus := b } :=
  Frame.refl regs mask s

theorem frame_setReg {regs : List Reg} {d : Reg} (mask : Byte) (s : State) (v : Byte) (hd : d ∈ regs) :
    Frame regs mask s (s.setReg d v) := by
  refine ⟨⟨fun q hq => State.reg_setReg_ne s v fun e => hq (e ▸ hd), State.inactiveBank_setReg s d v⟩, ?_, ?_, ?_, ?_,
    ?_⟩ <;> simp [PslKept, StackKept, MemKept, InputsKept, RestKept, State.peek]

/-- A new PSL that keeps RS and every bit outside the mask. -/
theorem frame_setPsl (regs : List Reg) {mask : Byte} (s : State) {p : Byte} (hr : pslRs p = pslRs s.psl)
    (hm : p &&& ~~~mask = s.psl &&& ~~~mask) : Frame regs mask s (s.setPsl p) :=
  ⟨⟨fun q _ => State.reg_setPsl_of_rs s hr q, State.inactiveBank_setPsl_of_rs s hr⟩, hm, ⟨rfl, rfl⟩, fun _ => rfl,
    ⟨rfl, rfl⟩, rfl, rfl, rfl, rfl, rfl, rfl, rfl⟩

/-! ### The effective-address calculator -/

theorem frame_relEa (regs : List Reg) (mask : Byte) (s : State) (a : RelArg) : Frame regs mask s (s.relEa a) := by
  rw [State.relEa_eq]; exact frame_control regs mask s _ _ _ _ _

theorem frame_zeroEa (regs : List Reg) (mask : Byte) (s : State) (a : RelArg) : Frame regs mask s (s.zeroEa a) := by
  rw [State.zeroEa_eq]; exact frame_control regs mask s _ _ _ _ _

theorem frame_braEa (regs : List Reg) (mask : Byte) (s : State) (a : BraArg) : Frame regs mask s (s.braEa a) := by
  rw [State.braEa_eq]; exact frame_control regs mask s _ _ _ _ _

theorem frame_braIndexedEa (regs : List Reg) (mask : Byte) (s : State) (a : BraArg) :
    Frame regs mask s (s.braIndexedEa a) :=
  (frame_braEa regs mask s a).trans (Frame.refl regs mask _)

theorem frame_absBase (regs : List Reg) (mask : Byte) (s : State) (a : AbsArg) : Frame regs mask s (s.absBase a) := by
  rw [State.absBase_eq]; exact frame_control regs mask s _ _ _ _ _

theorem frame_addIndex (regs : List Reg) (mask : Byte) (s : State) (r : Reg) : Frame regs mask s (s.addIndex r) :=
  Frame.refl regs mask s

theorem frame_clearRsel (regs : List Reg) (mask : Byte) (s : State) : Frame regs mask s s.clearRsel :=
  Frame.refl regs mask s

/-- An auto-indexed form writes its index register alone, in either order (R88). -/
theorem frame_autoIndex {regs : List Reg} {r : Reg} (mask : Byte) (s : State) (k : Byte) (hr : r ∈ regs) :
    Frame regs mask s (s.autoIndex r k) := by
  unfold State.autoIndex
  split
  · exact (frame_addIndex regs mask s r).trans (frame_setReg mask _ _ hr)
  · exact (frame_setReg mask s _ hr).trans (frame_addIndex regs mask _ r)

/-- The stepped register after an auto-indexed form, in either order (R88). -/
@[simp] theorem State.reg_autoIndex (s : State) (r : Reg) (k : Byte) : (s.autoIndex r k).reg r = s.reg r + k := by
  unfold State.autoIndex
  split <;> simp

/-- The address of an auto-indexed form: the index is the old content or the stepped one (R88). -/
theorem State.ea_autoIndex (s : State) (r : Reg) (k : Byte) :
    (s.autoIndex r k).ea =
      wrapAdd s.ea ((match s.params.autoIndex with
        | .post => s.reg r
        | .pre => s.reg r + k).setWidth 13) := by
  unfold State.autoIndex
  split <;> simp_all

/-- The absolute calculator writes no register but a stepped index register (R85 to R88). -/
theorem frame_absEa (mask : Byte) (s : State) (r : Reg) (a : AbsArg) :
    Frame (steppedReg r a) mask s (s.absEa r a) := by
  obtain ⟨ind, idx, addr⟩ := a
  cases idx
  · exact frame_absBase _ mask s _
  · exact ((frame_absBase _ mask s _).trans
      (frame_autoIndex mask _ 1 (by simp [steppedReg]))).trans (frame_clearRsel _ mask _)
  · exact ((frame_absBase _ mask s _).trans
      (frame_autoIndex mask _ (-1) (by simp [steppedReg]))).trans (frame_clearRsel _ mask _)
  · exact ((frame_absBase _ mask s _).trans (frame_addIndex _ mask _ r)).trans (frame_clearRsel _ mask _)

/-! ### Readings after each calculator -/

@[simp] theorem State.reg_relEa (s : State) (a : RelArg) (q : Reg) : (s.relEa a).reg q = s.reg q := (frame_relEa [] 0 s a).1.1 q (by simp)
@[simp] theorem State.inactiveBank_relEa (s : State) (a : RelArg) : (s.relEa a).inactiveBank = s.inactiveBank := (frame_relEa [] 0 s a).1.2
@[simp] theorem State.relEa_psl (s : State) (a : RelArg) : (s.relEa a).psl = s.psl := (frame_relEa [] 0 s a).psl
@[simp] theorem State.relEa_psu (s : State) (a : RelArg) : (s.relEa a).psu = s.psu := (frame_relEa [] 0 s a).2.2.1.1
@[simp] theorem State.relEa_ras (s : State) (a : RelArg) : (s.relEa a).ras = s.ras := (frame_relEa [] 0 s a).2.2.1.2
@[simp] theorem State.peek_relEa (s : State) (a : RelArg) (x : Addr) : (s.relEa a).peek x = s.peek x := (frame_relEa [] 0 s a).2.2.2.1 x
@[simp] theorem State.relEa_mem (s : State) (a : RelArg) : (s.relEa a).mem = s.mem := by rw [State.relEa_eq]
@[simp] theorem State.relEa_halted (s : State) (a : RelArg) : (s.relEa a).halted = s.halted := (frame_relEa [] 0 s a).2.2.2.2.2.1
@[simp] theorem State.pc_relEa (s : State) (a : RelArg) : (s.relEa a).pc = wrapAdd s.pc 1 := by
  rw [State.relEa_eq]; simp [State.pc, wrapAdd]
@[simp] theorem State.relEa_page (s : State) (a : RelArg) : (s.relEa a).page = s.page := by rw [State.relEa_eq]

@[simp] theorem State.reg_zeroEa (s : State) (a : RelArg) (q : Reg) : (s.zeroEa a).reg q = s.reg q := (frame_zeroEa [] 0 s a).1.1 q (by simp)
@[simp] theorem State.inactiveBank_zeroEa (s : State) (a : RelArg) : (s.zeroEa a).inactiveBank = s.inactiveBank := (frame_zeroEa [] 0 s a).1.2
@[simp] theorem State.zeroEa_psl (s : State) (a : RelArg) : (s.zeroEa a).psl = s.psl := (frame_zeroEa [] 0 s a).psl
@[simp] theorem State.zeroEa_psu (s : State) (a : RelArg) : (s.zeroEa a).psu = s.psu := (frame_zeroEa [] 0 s a).2.2.1.1
@[simp] theorem State.zeroEa_ras (s : State) (a : RelArg) : (s.zeroEa a).ras = s.ras := (frame_zeroEa [] 0 s a).2.2.1.2
@[simp] theorem State.peek_zeroEa (s : State) (a : RelArg) (x : Addr) : (s.zeroEa a).peek x = s.peek x := (frame_zeroEa [] 0 s a).2.2.2.1 x
@[simp] theorem State.zeroEa_mem (s : State) (a : RelArg) : (s.zeroEa a).mem = s.mem := by rw [State.zeroEa_eq]
@[simp] theorem State.zeroEa_halted (s : State) (a : RelArg) : (s.zeroEa a).halted = s.halted := (frame_zeroEa [] 0 s a).2.2.2.2.2.1
@[simp] theorem State.pc_zeroEa (s : State) (a : RelArg) : (s.zeroEa a).pc = wrapAdd s.pc 1 := by
  rw [State.zeroEa_eq]; simp [State.pc, wrapAdd]
@[simp] theorem State.zeroEa_page (s : State) (a : RelArg) : (s.zeroEa a).page = s.page := by rw [State.zeroEa_eq]

@[simp] theorem State.reg_braEa (s : State) (a : BraArg) (q : Reg) : (s.braEa a).reg q = s.reg q := (frame_braEa [] 0 s a).1.1 q (by simp)
@[simp] theorem State.inactiveBank_braEa (s : State) (a : BraArg) : (s.braEa a).inactiveBank = s.inactiveBank := (frame_braEa [] 0 s a).1.2
@[simp] theorem State.braEa_psl (s : State) (a : BraArg) : (s.braEa a).psl = s.psl := (frame_braEa [] 0 s a).psl
@[simp] theorem State.braEa_psu (s : State) (a : BraArg) : (s.braEa a).psu = s.psu := (frame_braEa [] 0 s a).2.2.1.1
@[simp] theorem State.braEa_ras (s : State) (a : BraArg) : (s.braEa a).ras = s.ras := (frame_braEa [] 0 s a).2.2.1.2
@[simp] theorem State.peek_braEa (s : State) (a : BraArg) (x : Addr) : (s.braEa a).peek x = s.peek x := (frame_braEa [] 0 s a).2.2.2.1 x
@[simp] theorem State.braEa_mem (s : State) (a : BraArg) : (s.braEa a).mem = s.mem := by rw [State.braEa_eq]
@[simp] theorem State.braEa_halted (s : State) (a : BraArg) : (s.braEa a).halted = s.halted := (frame_braEa [] 0 s a).2.2.2.2.2.1
@[simp] theorem State.pc_braEa (s : State) (a : BraArg) : (s.braEa a).pc = wrapAdd s.pc 2 := by
  rw [State.braEa_eq]; simp [State.pc, wrapAdd, BitVec.add_assoc]
@[simp] theorem State.braEa_page (s : State) (a : BraArg) : (s.braEa a).page = s.page := by rw [State.braEa_eq]

@[simp] theorem State.reg_braIndexedEa (s : State) (a : BraArg) (q : Reg) : (s.braIndexedEa a).reg q = s.reg q := (frame_braIndexedEa [] 0 s a).1.1 q (by simp)
@[simp] theorem State.inactiveBank_braIndexedEa (s : State) (a : BraArg) : (s.braIndexedEa a).inactiveBank = s.inactiveBank := (frame_braIndexedEa [] 0 s a).1.2
@[simp] theorem State.braIndexedEa_psl (s : State) (a : BraArg) : (s.braIndexedEa a).psl = s.psl := (frame_braIndexedEa [] 0 s a).psl
@[simp] theorem State.braIndexedEa_psu (s : State) (a : BraArg) : (s.braIndexedEa a).psu = s.psu := (frame_braIndexedEa [] 0 s a).2.2.1.1
@[simp] theorem State.braIndexedEa_ras (s : State) (a : BraArg) : (s.braIndexedEa a).ras = s.ras := (frame_braIndexedEa [] 0 s a).2.2.1.2
@[simp] theorem State.peek_braIndexedEa (s : State) (a : BraArg) (x : Addr) : (s.braIndexedEa a).peek x = s.peek x := (frame_braIndexedEa [] 0 s a).2.2.2.1 x
@[simp] theorem State.braIndexedEa_mem (s : State) (a : BraArg) : (s.braIndexedEa a).mem = s.mem := by simp [State.braIndexedEa]
@[simp] theorem State.braIndexedEa_halted (s : State) (a : BraArg) : (s.braIndexedEa a).halted = s.halted := (frame_braIndexedEa [] 0 s a).2.2.2.2.2.1
@[simp] theorem State.pc_braIndexedEa (s : State) (a : BraArg) : (s.braIndexedEa a).pc = wrapAdd s.pc 2 := State.pc_braEa s a
@[simp] theorem State.braIndexedEa_page (s : State) (a : BraArg) : (s.braIndexedEa a).page = s.page := by simp [State.braIndexedEa]

@[simp] theorem State.inactiveBank_absEa (s : State) (r : Reg) (a : AbsArg) : (s.absEa r a).inactiveBank = s.inactiveBank := (frame_absEa 0 s r a).1.2
@[simp] theorem State.absEa_psl (s : State) (r : Reg) (a : AbsArg) : (s.absEa r a).psl = s.psl := (frame_absEa 0 s r a).psl
@[simp] theorem State.absEa_psu (s : State) (r : Reg) (a : AbsArg) : (s.absEa r a).psu = s.psu := (frame_absEa 0 s r a).2.2.1.1
@[simp] theorem State.absEa_ras (s : State) (r : Reg) (a : AbsArg) : (s.absEa r a).ras = s.ras := (frame_absEa 0 s r a).2.2.1.2
@[simp] theorem State.peek_absEa (s : State) (r : Reg) (a : AbsArg) (x : Addr) : (s.absEa r a).peek x = s.peek x := (frame_absEa 0 s r a).2.2.2.1 x
@[simp] theorem State.absEa_halted (s : State) (r : Reg) (a : AbsArg) : (s.absEa r a).halted = s.halted := (frame_absEa 0 s r a).2.2.2.2.2.1

/-- What the absolute calculator leaves alone whatever the index control, and its program counter, record and rsel. -/
@[simp] theorem State.absEa_mem (s : State) (r : Reg) (a : AbsArg) : (s.absEa r a).mem = s.mem := by
  obtain ⟨ind, idx, addr⟩ := a
  cases idx <;> simp [State.absEa, State.autoIndex, State.absBase_eq] <;> split <;> simp

@[simp] theorem State.absEa_page (s : State) (r : Reg) (a : AbsArg) : (s.absEa r a).page = s.page := by
  obtain ⟨ind, idx, addr⟩ := a
  cases idx <;> simp [State.absEa, State.autoIndex, State.absBase_eq] <;> split <;> simp

@[simp] theorem State.absEa_offset (s : State) (r : Reg) (a : AbsArg) : (s.absEa r a).offset = s.offset + 2 := by
  have h : ∀ o : BitVec 13, o + 1#13 + 1#13 = o + 2#13 := by intro o; rw [BitVec.add_assoc]; rfl
  obtain ⟨ind, idx, addr⟩ := a
  cases idx <;> simp [State.absEa, State.autoIndex, State.absBase_eq] <;> (try split) <;> simp [h]

@[simp] theorem State.pc_absEa (s : State) (r : Reg) (a : AbsArg) : (s.absEa r a).pc = wrapAdd s.pc 2 := by
  simp [State.pc, wrapAdd]

theorem State.absEa_bus (s : State) (r : Reg) (a : AbsArg) : (s.absEa r a).bus = (s.absBase a).bus := by
  obtain ⟨ind, idx, addr⟩ := a
  cases idx <;> simp [State.absEa, State.autoIndex] <;> split <;> simp

theorem State.absEa_rsel (s : State) (r : Reg) (a : AbsArg) : (s.absEa r a).rsel = if a.idx = .none then s.rsel else 0 := by
  obtain ⟨ind, idx, addr⟩ := a
  cases idx <;> simp [State.absEa, State.autoIndex, State.absBase_eq]

/-- The index register after the calculator: stepped by the auto forms, else unchanged (R88). -/
theorem State.reg_absEa (s : State) (r : Reg) (a : AbsArg) :
    (s.absEa r a).reg r = (match a.idx with
      | .none => s.reg r
      | .indexed => s.reg r
      | .autoInc => s.reg r + 1
      | .autoDec => s.reg r + -1) := by
  have h : ∀ q, (s.absBase a).reg q = s.reg q := fun q => (frame_absBase [] 0 s a).1.1 q (by simp)
  obtain ⟨ind, idx, addr⟩ := a
  cases idx <;> simp [State.absEa, h]

theorem dataReg_eq (r : Reg) (a : AbsArg) : dataReg r a = if a.idx = .none then r else .r0 := by
  obtain ⟨ind, idx, addr⟩ := a
  cases idx <;> rfl

theorem frame_dataRead (regs : List Reg) (mask : Byte) (s : State) (a : Addr) : Frame regs mask s (s.dataRead a) :=
  Frame.refl regs mask s

theorem frame_nextArg (regs : List Reg) (mask : Byte) (s : State) : Frame regs mask s s.nextArg :=
  Frame.refl regs mask s

/-- Each operand form keeps everything but the stepped index register, the program counter, EA, rsel and the record. -/
theorem formZ_frame (s : State) (r : Reg) : Frame (formZ s r).also 0 s (formZ s r).after := Frame.refl _ _ s

theorem formI_frame (s : State) (r : Reg) (imm : Byte) : Frame (formI s r imm).also 0 s (formI s r imm).after :=
  frame_nextArg _ _ s

theorem formR_frame (s : State) (r : Reg) (a : RelArg) : Frame (formR s r a).also 0 s (formR s r a).after :=
  (frame_relEa _ _ s a).trans (frame_dataRead _ _ _ _)

theorem formA_frame (s : State) (r : Reg) (a : AbsArg) : Frame (formA s r a).also 0 s (formA s r a).after :=
  (frame_absEa _ s r a).trans (frame_dataRead _ _ _ _)

/-- The operand that each meaning obtains is the form the statements name. -/
theorem relOperand_eq (s : State) (r : Reg) (a : RelArg) :
    s.relOperand a = ⟨s.peek (s.relEa a).ea, (formR s r a).after⟩ := by
  have h : (s.relEa a).peek (s.relEa a).ea = s.peek (s.relEa a).ea := (frame_relEa [] 0 s a).2.2.2.1 _
  rw [State.relOperand, State.eaOperand, h]; rfl

theorem absOperand_eq (s : State) (r : Reg) (a : AbsArg) :
    s.absOperand r a = ⟨s.peek (s.absEa r a).ea, (formA s r a).after⟩ := by
  have h : (s.absEa r a).peek (s.absEa r a).ea = s.peek (s.absEa r a).ea := (frame_absEa 0 s r a).2.2.2.1 _
  rw [State.absOperand, State.eaOperand, h]; rfl

/-! ### Results -/

/-- What a result with its status byte does: the one lemma behind every instruction that writes a register. -/
theorem writesReg_of_form {s : State} {o : Form} {v p mask : Byte} {flags : Byte → Prop}
    (hf : Frame o.also 0 s o.after) (hr : pslRs p = pslRs o.after.psl)
    (hm : p &&& ~~~mask = o.after.psl &&& ~~~mask) (hp : flags p) :
    WritesReg (.next ((o.after.setReg o.dest v).setPsl p)) s o v mask flags := by
  have hr' : pslRs p = pslRs (o.after.setReg o.dest v).psl := by simpa using hr
  have hm' : p &&& ~~~mask = (o.after.setReg o.dest v).psl &&& ~~~mask := by simpa using hm
  refine ⟨_, rfl, ?_, hp, fun q hq => ?_, ?_, ?_⟩
  · rw [State.reg_setPsl_of_rs _ hr', State.reg_setReg]
  · rw [State.reg_setPsl_of_rs _ hr', State.reg_setReg_ne _ _ hq]
  · have h0 : Frame (o.dest :: o.also) mask s o.after :=
      hf.mono (fun q hq => List.mem_cons_of_mem _ hq) (by simp)
    exact (h0.trans (frame_setReg mask _ v (by simp))).trans (frame_setPsl _ _ hr' hm')
  · exact ⟨by simp [State.pc], by simp, by simp, by simp⟩

/-- An instruction that writes flags alone: the named register is as the form left it. -/
theorem writesReg_of_flags {s : State} {o : Form} {p mask : Byte} {flags : Byte → Prop}
    (hf : Frame o.also 0 s o.after) (hr : pslRs p = pslRs o.after.psl)
    (hm : p &&& ~~~mask = o.after.psl &&& ~~~mask) (hp : flags p) :
    WritesReg (.next (o.after.setPsl p)) s o o.before mask flags := by
  refine ⟨_, rfl, ?_, hp, fun q _ => ?_, ?_, ?_⟩
  · rw [State.reg_setPsl_of_rs _ hr]; rfl
  · rw [State.reg_setPsl_of_rs _ hr]
  · have h0 : Frame (o.dest :: o.also) mask s o.after :=
      hf.mono (fun q hq => List.mem_cons_of_mem _ hq) (by simp)
    exact h0.trans (frame_setPsl _ _ hr hm)
  · exact ⟨rfl, rfl, rfl, rfl⟩

/-- Writing CC keeps RS and every other bit. -/
theorem withCc_kept (p : Byte) (c : BitVec 2) : withCc p c &&& ~~~ccMask = p &&& ~~~ccMask := by
  revert p c; decide +kernel

/-- The byte moved and CC, and nothing else (R104, R105). -/
theorem load_writes {s : State} {o : Form} (hf : Frame o.also 0 s o.after) (v : Byte) :
    WritesReg (.next (Operand.load ⟨v, o.after⟩ o.dest)) s o v ccMask (fun p => p = withCc o.after.psl (cc8 v)) := by
  have e : Operand.load ⟨v, o.after⟩ o.dest = (o.after.setReg o.dest v).setPsl (withCc o.after.psl (cc8 v)) := by
    simp [Operand.load, State.setCc, State.setPsl]
  rw [e]
  exact writesReg_of_form hf (by simp) (withCc_kept _ _) rfl

/-- The result of a bitwise operation and CC, and nothing else (R122). -/
theorem logical_writes {s : State} {o : Form} (hf : Frame o.also 0 s o.after) (x v : Byte) :
    WritesReg (.next (Operand.logical ⟨x, o.after⟩ o.dest v)) s o v ccMask
      (fun p => p = withCc o.after.psl (cc8 v)) :=
  load_writes hf v

/-- The sum and the status byte of `add8`, and nothing else (R125). -/
theorem addInto_writes {s : State} {o : Form} (hf : Frame o.also 0 s o.after) (x : Byte) :
    WritesReg (.next (Operand.addInto ⟨x, o.after⟩ o.dest)) s o (add8 s.psl o.before x).value arithMask
      (fun p => p = (add8 s.psl o.before x).psl) := by
  rw [← hf.psl]
  exact writesReg_of_form hf (by simp [add8]) (arithPsl_fields _ _ _ _ _).2.2.2.2 rfl

/-- The difference and the status byte of `sub8`, and nothing else (R130). -/
theorem subFrom_writes {s : State} {o : Form} (hf : Frame o.also 0 s o.after) (x : Byte) :
    WritesReg (.next (Operand.subFrom ⟨x, o.after⟩ o.dest)) s o (sub8 s.psl o.before x).value arithMask
      (fun p => p = (sub8 s.psl o.before x).psl) := by
  rw [← hf.psl]
  exact writesReg_of_form hf (by simp [sub8]) (arithPsl_fields _ _ _ _ _).2.2.2.2 rfl

/-- CC alone (R135). -/
theorem compareWith_writes {s : State} {o : Form} (hf : Frame o.also 0 s o.after) (x : Byte) :
    WritesReg (.next (Operand.compareWith ⟨x, o.after⟩ o.dest)) s o o.before ccMask
      (fun p => p = withCc s.psl (com8 s.psl o.before x)) := by
  rw [← hf.psl]
  exact writesReg_of_flags hf (by simp) (withCc_kept _ _) rfl

/-- A status byte may be described by any property it has. -/
theorem WritesReg.imp {res : Result} {s : State} {o : Form} {v mask : Byte} {p q : Byte → Prop}
    (h : WritesReg res s o v mask p) (hpq : ∀ x, p x → q x) : WritesReg res s o v mask q := by
  obtain ⟨t, h1, h2, h3, h4⟩ := h
  exact ⟨t, h1, h2, hpq _ h3, h4⟩

/-! ### Transfers -/

/-- What a format-R branch does, taken or not (R166). -/
theorem branches_branchRel {s t : State} {regs : List Reg} (hs : Frame regs 0 s t) (hpc : t.page = s.page)
    (ho : t.offset = s.offset) (he : t.ea = s.ea) (hr : t.rsel = s.rsel) (hb : t.bus = s.bus) (hm : t.mem = s.mem)
    (taken : Bool) (a : RelArg) {also : State → Prop} (ha : also (t.branchRel taken a)) :
    Branches (.next (t.branchRel taken a)) s regs taken (s.relEa a) 1 also := by
  have hp : t.pc = s.pc := by rw [State.pc, State.pc, hpc, ho]
  have hpt : ∀ x, t.pointerAt x = s.pointerAt x := by intro x; simp [State.pointerAt, State.peek, hm]
  refine ⟨_, rfl, ha, ?_, ?_, ?_⟩
  · refine hs.trans ?_
    cases taken
    · exact Frame.refl _ _ _
    · exact (frame_relEa regs 0 t a).trans (Frame.refl _ _ _)
  · cases taken
    · simpa [State.branchRel] using hr
    · simpa [State.branchRel, State.relEa_eq] using hr
  · cases taken
    · simp [State.branchRel, hp, he, hb]
    · simp [State.branchRel, State.relEa_eq, hp, hpc, ho, hb, hpt]

/-- What a format-B branch does, taken or not (R166). -/
theorem branches_branchAbs {s t : State} {regs : List Reg} (hs : Frame regs 0 s t) (hpc : t.page = s.page)
    (ho : t.offset = s.offset) (he : t.ea = s.ea) (hr : t.rsel = s.rsel) (hb : t.bus = s.bus) (hm : t.mem = s.mem)
    (taken : Bool) (a : BraArg) {also : State → Prop} (ha : also (t.branchAbs taken a)) :
    Branches (.next (t.branchAbs taken a)) s regs taken (s.braEa a) 2 also := by
  have hp : t.pc = s.pc := by rw [State.pc, State.pc, hpc, ho]
  have hpt : ∀ x, t.pointerAt x = s.pointerAt x := by intro x; simp [State.pointerAt, State.peek, hm]
  refine ⟨_, rfl, ha, ?_, ?_, ?_⟩
  · refine hs.trans ?_
    cases taken
    · exact Frame.refl _ _ _
    · exact (frame_braEa regs 0 t a).trans (Frame.refl _ _ _)
  · cases taken
    · simpa [State.branchAbs] using hr
    · simpa [State.branchAbs, State.braEa_eq] using hr
  · cases taken
    · simp [State.branchAbs, hp, he, hb]
    · simp [State.branchAbs, State.braEa_eq, hp, hb, hpt]

/-! ### Status of a call or a return -/

/-- A new stack pointer changes bits 2:0 of PSU alone (R28). -/
theorem withSp_high (u : Byte) (sp : BitVec 3) : withSp u sp &&& 0xF8 = u &&& 0xF8 := by
  revert u sp; decide +kernel

/-- Storing at the stack pointer and incrementing it: everything a call does when taken (R28, R166). -/
theorem calls_callEa {s e : State} {back : Addr} (hf : Frame [] 0 s e) (hr : e.rsel = s.rsel) (hb : e.pc = back)
    {n : BitVec 13} (hn : wrapAdd s.pc n = back) : Calls (.next e.callEa) s true e n := by
  have hpsl := hf.psl
  obtain ⟨⟨h1, h2⟩, -, ⟨h4, h5⟩, h6, h7, h9⟩ := hf
  refine ⟨_, rfl, ⟨⟨fun q hq => h1 q hq, h2⟩, hpsl, h6, h7, h9⟩, hr, ?_⟩
  subst hb
  refine ⟨?_, rfl, rfl, ?_, ?_, ?_⟩
  · simp [State.callEa]
  · simp [State.callEa, State.push, hn, h4, h5, State.sp, Vector.toList_set]
  · simp [State.callEa, h4, State.sp]
  · simpa [State.callEa, h4] using withSp_high s.psu (e.sp + 1)

/-! ### Addresses as numbers -/

/-- A displacement as an offset (R81). -/
theorem dispOffset_toNat (d : BitVec 7) : ((dispOffset d).toNat : Int) = sext7 d % 8192 := by
  revert d; decide +kernel

/-- The relative sum (R82). -/
theorem relTarget_toNat (p : BitVec 2) (o : BitVec 13) (d : BitVec 7) :
    (relTarget p o d).toNat = p.toNat * 8192 + (((o.toNat : Int) + sext7 d) % 8192).toNat := by
  have := dispOffset_toNat d
  rw [relTarget, mkAddr_toNat, BitVec.toNat_add]
  omega

/-- The zero-page-relative target (R83). -/
theorem zeroTarget_toNat (d : BitVec 7) : (zeroTarget d).toNat = (sext7 d % 8192).toNat := by
  rw [zeroTarget, mkAddr_toNat, ← dispOffset_toNat]
  simp

/-- The address of a pointer's second byte (R84). -/
theorem nextInPage_toNat (b : Addr) : (nextInPage b).toNat = nextNat b.toNat := by
  rw [nextInPage, wrapAdd_toNat]
  simp [nextNat]

/-- A pointer's value (R84). -/
theorem State.pointerAt_toNat (s : State) (b : Addr) : (s.pointerAt b).toNat = pointerNat s.mem b.toNat := by
  rw [State.pointerAt, pointerValue_toNat]
  simp [pointerNat, State.peek, nextInPage_toNat]

/-- The address after the indirect bit (R84). -/
theorem resolvedNat_eq (s : State) (b : Addr) (i : Bool) :
    (if i then s.pointerAt b else b).toNat = resolvedNat s.mem i b.toNat := by
  cases i <;> simp [resolvedNat, State.pointerAt_toNat]

/-- The reads of an indirection (R84). -/
theorem pointerReads_eq (b : Addr) (i : Bool) :
    pointerReads i b.toNat = if i then [.dataRead (nextInPage b), .dataRead b] else [] := by
  have h : BitVec.ofNat 15 (nextNat b.toNat) = nextInPage b := by
    rw [← nextInPage_toNat]
    simp
  cases i <;> simp [pointerReads, h]

/-! ### Conditions -/

/-- The condition-true test in one line (R165). -/
theorem condTrue_eq (v : Cond) (c : BitVec 2) : condTrue v c = decide (v = .always ∨ c = v.bits) := by
  cases v <;> (revert c; decide)

/-- The condition-false test in one line (R169). -/
theorem condFalse_eq (v : Cond) (c : BitVec 2) : condFalse v c = decide (c ≠ v.bits) := by
  cases v <;> (revert c; decide)

end Sys2Proof.Machine
end

