-- ==== Sys2Proof/Laws/PerInstr.lean ====
section
/-!
SUPPORT. The statement made of every instruction as syntax: the opcode byte alone gives the length of the encoding
(spec/30_encoding.md R60).
-/

namespace Sys2Proof.Laws

/-- A well-formed instruction's encoding begins with an opcode byte whose length (R60) is the encoding's. -/
def EncodeLength.Statement (i : Instr) : Prop :=
  i.wf = true → ∃ op rest, encode i = op :: rest ∧ opcodeLength op = i.length

theorem EncodeLength.lodz (r : Reg) : EncodeLength.Statement (.lodz r) := by
  intro _
  cases r <;> exact ⟨_, _, rfl, rfl⟩

theorem EncodeLength.lodi (r : Reg) (imm : Byte) : EncodeLength.Statement (.lodi r imm) := by
  intro _
  cases r <;> exact ⟨_, _, rfl, rfl⟩

theorem EncodeLength.lodr (r : Reg) (a : RelArg) : EncodeLength.Statement (.lodr r a) := by
  intro _
  cases r <;> exact ⟨_, _, rfl, rfl⟩

theorem EncodeLength.loda (r : Reg) (a : AbsArg) : EncodeLength.Statement (.loda r a) := by
  intro _
  cases r <;> exact ⟨_, _, rfl, rfl⟩

theorem EncodeLength.strz (r : Reg) : EncodeLength.Statement (.strz r) := by
  intro _
  cases r <;> exact ⟨_, _, rfl, rfl⟩

theorem EncodeLength.strr (r : Reg) (a : RelArg) : EncodeLength.Statement (.strr r a) := by
  intro _
  cases r <;> exact ⟨_, _, rfl, rfl⟩

theorem EncodeLength.stra (r : Reg) (a : AbsArg) : EncodeLength.Statement (.stra r a) := by
  intro _
  cases r <;> exact ⟨_, _, rfl, rfl⟩

theorem EncodeLength.andz (r : Reg) : EncodeLength.Statement (.andz r) := by
  intro _
  cases r <;> exact ⟨_, _, rfl, rfl⟩

theorem EncodeLength.andi (r : Reg) (imm : Byte) : EncodeLength.Statement (.andi r imm) := by
  intro _
  cases r <;> exact ⟨_, _, rfl, rfl⟩

theorem EncodeLength.andr (r : Reg) (a : RelArg) : EncodeLength.Statement (.andr r a) := by
  intro _
  cases r <;> exact ⟨_, _, rfl, rfl⟩

theorem EncodeLength.anda (r : Reg) (a : AbsArg) : EncodeLength.Statement (.anda r a) := by
  intro _
  cases r <;> exact ⟨_, _, rfl, rfl⟩

theorem EncodeLength.eorz (r : Reg) : EncodeLength.Statement (.eorz r) := by
  intro _
  cases r <;> exact ⟨_, _, rfl, rfl⟩

theorem EncodeLength.eori (r : Reg) (imm : Byte) : EncodeLength.Statement (.eori r imm) := by
  intro _
  cases r <;> exact ⟨_, _, rfl, rfl⟩

theorem EncodeLength.eorr (r : Reg) (a : RelArg) : EncodeLength.Statement (.eorr r a) := by
  intro _
  cases r <;> exact ⟨_, _, rfl, rfl⟩

theorem EncodeLength.eora (r : Reg) (a : AbsArg) : EncodeLength.Statement (.eora r a) := by
  intro _
  cases r <;> exact ⟨_, _, rfl, rfl⟩

theorem EncodeLength.iorz (r : Reg) : EncodeLength.Statement (.iorz r) := by
  intro _
  cases r <;> exact ⟨_, _, rfl, rfl⟩

theorem EncodeLength.iori (r : Reg) (imm : Byte) : EncodeLength.Statement (.iori r imm) := by
  intro _
  cases r <;> exact ⟨_, _, rfl, rfl⟩

theorem EncodeLength.iorr (r : Reg) (a : RelArg) : EncodeLength.Statement (.iorr r a) := by
  intro _
  cases r <;> exact ⟨_, _, rfl, rfl⟩

theorem EncodeLength.iora (r : Reg) (a : AbsArg) : EncodeLength.Statement (.iora r a) := by
  intro _
  cases r <;> exact ⟨_, _, rfl, rfl⟩

theorem EncodeLength.addz (r : Reg) : EncodeLength.Statement (.addz r) := by
  intro _
  cases r <;> exact ⟨_, _, rfl, rfl⟩

theorem EncodeLength.addi (r : Reg) (imm : Byte) : EncodeLength.Statement (.addi r imm) := by
  intro _
  cases r <;> exact ⟨_, _, rfl, rfl⟩

theorem EncodeLength.addr (r : Reg) (a : RelArg) : EncodeLength.Statement (.addr r a) := by
  intro _
  cases r <;> exact ⟨_, _, rfl, rfl⟩

theorem EncodeLength.adda (r : Reg) (a : AbsArg) : EncodeLength.Statement (.adda r a) := by
  intro _
  cases r <;> exact ⟨_, _, rfl, rfl⟩

theorem EncodeLength.subz (r : Reg) : EncodeLength.Statement (.subz r) := by
  intro _
  cases r <;> exact ⟨_, _, rfl, rfl⟩

theorem EncodeLength.subi (r : Reg) (imm : Byte) : EncodeLength.Statement (.subi r imm) := by
  intro _
  cases r <;> exact ⟨_, _, rfl, rfl⟩

theorem EncodeLength.subr (r : Reg) (a : RelArg) : EncodeLength.Statement (.subr r a) := by
  intro _
  cases r <;> exact ⟨_, _, rfl, rfl⟩

theorem EncodeLength.suba (r : Reg) (a : AbsArg) : EncodeLength.Statement (.suba r a) := by
  intro _
  cases r <;> exact ⟨_, _, rfl, rfl⟩

theorem EncodeLength.comz (r : Reg) : EncodeLength.Statement (.comz r) := by
  intro _
  cases r <;> exact ⟨_, _, rfl, rfl⟩

theorem EncodeLength.comi (r : Reg) (imm : Byte) : EncodeLength.Statement (.comi r imm) := by
  intro _
  cases r <;> exact ⟨_, _, rfl, rfl⟩

theorem EncodeLength.comr (r : Reg) (a : RelArg) : EncodeLength.Statement (.comr r a) := by
  intro _
  cases r <;> exact ⟨_, _, rfl, rfl⟩

theorem EncodeLength.coma (r : Reg) (a : AbsArg) : EncodeLength.Statement (.coma r a) := by
  intro _
  cases r <;> exact ⟨_, _, rfl, rfl⟩

theorem EncodeLength.dar (r : Reg) : EncodeLength.Statement (.dar r) := by
  intro _
  cases r <;> exact ⟨_, _, rfl, rfl⟩

theorem EncodeLength.rrl (r : Reg) : EncodeLength.Statement (.rrl r) := by
  intro _
  cases r <;> exact ⟨_, _, rfl, rfl⟩

theorem EncodeLength.rrr (r : Reg) : EncodeLength.Statement (.rrr r) := by
  intro _
  cases r <;> exact ⟨_, _, rfl, rfl⟩

theorem EncodeLength.spsu : EncodeLength.Statement .spsu :=
  fun _ => ⟨_, _, rfl, rfl⟩

theorem EncodeLength.spsl : EncodeLength.Statement .spsl :=
  fun _ => ⟨_, _, rfl, rfl⟩

theorem EncodeLength.lpsu : EncodeLength.Statement .lpsu :=
  fun _ => ⟨_, _, rfl, rfl⟩

theorem EncodeLength.lpsl : EncodeLength.Statement .lpsl :=
  fun _ => ⟨_, _, rfl, rfl⟩

theorem EncodeLength.cpsu (mask : Byte) : EncodeLength.Statement (.cpsu mask) :=
  fun _ => ⟨_, _, rfl, rfl⟩

theorem EncodeLength.cpsl (mask : Byte) : EncodeLength.Statement (.cpsl mask) :=
  fun _ => ⟨_, _, rfl, rfl⟩

theorem EncodeLength.ppsu (mask : Byte) : EncodeLength.Statement (.ppsu mask) :=
  fun _ => ⟨_, _, rfl, rfl⟩

theorem EncodeLength.ppsl (mask : Byte) : EncodeLength.Statement (.ppsl mask) :=
  fun _ => ⟨_, _, rfl, rfl⟩

theorem EncodeLength.tpsu (mask : Byte) : EncodeLength.Statement (.tpsu mask) :=
  fun _ => ⟨_, _, rfl, rfl⟩

theorem EncodeLength.tpsl (mask : Byte) : EncodeLength.Statement (.tpsl mask) :=
  fun _ => ⟨_, _, rfl, rfl⟩

theorem EncodeLength.tmi (r : Reg) (mask : Byte) : EncodeLength.Statement (.tmi r mask) := by
  intro _
  cases r <;> exact ⟨_, _, rfl, rfl⟩

theorem EncodeLength.bctr (v : Cond) (a : RelArg) : EncodeLength.Statement (.bctr v a) := by
  intro _
  cases v <;> exact ⟨_, _, rfl, rfl⟩

theorem EncodeLength.bcta (v : Cond) (a : BraArg) : EncodeLength.Statement (.bcta v a) := by
  intro _
  cases v <;> exact ⟨_, _, rfl, rfl⟩

theorem EncodeLength.bcfr (v : Cond) (a : RelArg) : EncodeLength.Statement (.bcfr v a) := by
  intro _
  cases v <;> exact ⟨_, _, rfl, rfl⟩

theorem EncodeLength.bcfa (v : Cond) (a : BraArg) : EncodeLength.Statement (.bcfa v a) := by
  intro _
  cases v <;> exact ⟨_, _, rfl, rfl⟩

theorem EncodeLength.zbrr (a : RelArg) : EncodeLength.Statement (.zbrr a) :=
  fun _ => ⟨_, _, rfl, rfl⟩

theorem EncodeLength.bxa (a : BraArg) : EncodeLength.Statement (.bxa a) :=
  fun _ => ⟨_, _, rfl, rfl⟩

theorem EncodeLength.brnr (r : Reg) (a : RelArg) : EncodeLength.Statement (.brnr r a) := by
  intro _
  cases r <;> exact ⟨_, _, rfl, rfl⟩

theorem EncodeLength.brna (r : Reg) (a : BraArg) : EncodeLength.Statement (.brna r a) := by
  intro _
  cases r <;> exact ⟨_, _, rfl, rfl⟩

theorem EncodeLength.birr (r : Reg) (a : RelArg) : EncodeLength.Statement (.birr r a) := by
  intro _
  cases r <;> exact ⟨_, _, rfl, rfl⟩

theorem EncodeLength.bira (r : Reg) (a : BraArg) : EncodeLength.Statement (.bira r a) := by
  intro _
  cases r <;> exact ⟨_, _, rfl, rfl⟩

theorem EncodeLength.bdrr (r : Reg) (a : RelArg) : EncodeLength.Statement (.bdrr r a) := by
  intro _
  cases r <;> exact ⟨_, _, rfl, rfl⟩

theorem EncodeLength.bdra (r : Reg) (a : BraArg) : EncodeLength.Statement (.bdra r a) := by
  intro _
  cases r <;> exact ⟨_, _, rfl, rfl⟩

theorem EncodeLength.bstr (v : Cond) (a : RelArg) : EncodeLength.Statement (.bstr v a) := by
  intro _
  cases v <;> exact ⟨_, _, rfl, rfl⟩

theorem EncodeLength.bsta (v : Cond) (a : BraArg) : EncodeLength.Statement (.bsta v a) := by
  intro _
  cases v <;> exact ⟨_, _, rfl, rfl⟩

theorem EncodeLength.bsfr (v : Cond) (a : RelArg) : EncodeLength.Statement (.bsfr v a) := by
  intro _
  cases v <;> exact ⟨_, _, rfl, rfl⟩

theorem EncodeLength.bsfa (v : Cond) (a : BraArg) : EncodeLength.Statement (.bsfa v a) := by
  intro _
  cases v <;> exact ⟨_, _, rfl, rfl⟩

theorem EncodeLength.zbsr (a : RelArg) : EncodeLength.Statement (.zbsr a) :=
  fun _ => ⟨_, _, rfl, rfl⟩

theorem EncodeLength.bsxa (a : BraArg) : EncodeLength.Statement (.bsxa a) :=
  fun _ => ⟨_, _, rfl, rfl⟩

theorem EncodeLength.bsnr (r : Reg) (a : RelArg) : EncodeLength.Statement (.bsnr r a) := by
  intro _
  cases r <;> exact ⟨_, _, rfl, rfl⟩

theorem EncodeLength.bsna (r : Reg) (a : BraArg) : EncodeLength.Statement (.bsna r a) := by
  intro _
  cases r <;> exact ⟨_, _, rfl, rfl⟩

theorem EncodeLength.retc (v : Cond) : EncodeLength.Statement (.retc v) := by
  intro _
  cases v <;> exact ⟨_, _, rfl, rfl⟩

theorem EncodeLength.rete (v : Cond) : EncodeLength.Statement (.rete v) := by
  intro _
  cases v <;> exact ⟨_, _, rfl, rfl⟩

theorem EncodeLength.redc (r : Reg) : EncodeLength.Statement (.redc r) := by
  intro _
  cases r <;> exact ⟨_, _, rfl, rfl⟩

theorem EncodeLength.redd (r : Reg) : EncodeLength.Statement (.redd r) := by
  intro _
  cases r <;> exact ⟨_, _, rfl, rfl⟩

theorem EncodeLength.rede (r : Reg) (port : Byte) : EncodeLength.Statement (.rede r port) := by
  intro _
  cases r <;> exact ⟨_, _, rfl, rfl⟩

theorem EncodeLength.wrtc (r : Reg) : EncodeLength.Statement (.wrtc r) := by
  intro _
  cases r <;> exact ⟨_, _, rfl, rfl⟩

theorem EncodeLength.wrtd (r : Reg) : EncodeLength.Statement (.wrtd r) := by
  intro _
  cases r <;> exact ⟨_, _, rfl, rfl⟩

theorem EncodeLength.wrte (r : Reg) (port : Byte) : EncodeLength.Statement (.wrte r port) := by
  intro _
  cases r <;> exact ⟨_, _, rfl, rfl⟩

theorem EncodeLength.halt : EncodeLength.Statement .halt :=
  fun _ => ⟨_, _, rfl, rfl⟩

theorem EncodeLength.nop : EncodeLength.Statement .nop :=
  fun _ => ⟨_, _, rfl, rfl⟩

theorem EncodeLength.illegal (opcode : Byte) : EncodeLength.Statement (.illegal opcode) := by
  intro h
  have h' : opcode ∈ illegalOpcodes := by simpa [Instr.wf] using h
  refine ⟨opcode, [], rfl, ?_⟩
  revert h'
  revert opcode
  decide +kernel

end Sys2Proof.Laws
end

