-- ==== Sys2Proof/Laws/Step.lean ====
section
/-!
SUPPORT. The boundary, the interrupt sequence and the return from it: everything each does (Machine/Ops.lean,
Machine/Step.lean).
-/

namespace Sys2Proof.Machine

/-- A boundary at which no event arrives only moves the schedule on (R8). -/
theorem State.boundary_of_no_event {s : State} (h : s.arrived = []) :
    s.boundary = { s with events := s.events.tail } := by
  simp [State.boundary, h]

theorem State.resetArrived_of_no_event {s : State} (h : s.arrived = []) : s.resetArrived = false := by
  simp [State.resetArrived, h]

/-- Everything the interrupt sequence does (R215 to R218). -/
theorem State.takeInterrupt_eq (s : State) :
    s.takeInterrupt =
      let back := mkAddr s.page (if s.halted then s.offset + 1 else s.offset)
      let direct := zeroTarget (s.vectorByte.extractLsb' 0 7)
      let target := if s.vectorByte.getLsbD 7 then s.pointerAt direct else direct
      { s with
        ras := s.ras.set s.sp.toNat back s.sp.isLt
        psu := withIi (withSp s.psu (s.sp + 1)) true
        halted := false
        page := pageOf target
        offset := offsetOf target
        ea := target
        vectors := s.vectors.tail
        inputs := s.inputs + 1
        bus :=
          (if s.vectorByte.getLsbD 7 then [.dataRead (nextInPage direct), .dataRead direct] else []) ++
            .intAck :: s.bus } := by
  unfold State.takeInterrupt
  dsimp only
  rw [State.resolve_eq]
  cases h : s.halted
  · obtain ⟨t, rfl⟩ : ∃ t : State, s = { t with halted := false } := ⟨s, by rw [← h]⟩
    have e : State.unhalt { t with halted := false } = { t with halted := false } := rfl
    rw [e]
    cases (State.vectorByte { t with halted := false }).getLsbD 7 <;> rfl
  · have e : s.unhalt = { s with halted := false, offset := s.offset + 1 } := by
      simp only [State.unhalt, h, if_true]; rfl
    have hv : (State.vectorByte { s with halted := false, offset := s.offset + 1 }) = s.vectorByte := rfl
    rw [e, hv]
    cases s.vectorByte.getLsbD 7 <;> rfl

/-- Everything a taken return from interrupt does (R188, R220). -/
theorem State.returnFromInterrupt_eq (s : State) :
    s.returnFromInterrupt =
      { s with
        page := pageOf s.stackTop
        offset := offsetOf s.stackTop
        psu := withIi (withSp s.psu (s.sp - 1)) false } :=
  rfl

/-- Everything an opcode fetch does (R61). -/
theorem State.afterOpcode_eq (s : State) :
    s.afterOpcode =
      { s with
        ppc := s.pc
        ir := s.peek s.pc
        rsel := (s.peek s.pc).extractLsb' 0 2
        offset := s.offset + 1
        bus := .fetchOp s.pc :: s.bus } :=
  rfl

end Sys2Proof.Machine
end

