-- ==== Sys2Proof/Laws/Timing.lean ====
section
/-!
SUPPORT. What the cost of a step is, and how many data reads each shared operation makes (Machine/Timing.lean).
-/

namespace Sys2Proof.Machine

/-- The new transactions of a step are what it put before the old record. -/
theorem newTransactions_of_bus {s t : State} {new : List Transaction} (h : t.bus = new ++ s.bus) :
    newTransactions s t = new := by
  simp [newTransactions, h]

/-- The cost of a step by its new transactions (R252, R91). -/
theorem stepCost_of_bus (cycles : Byte → Nat) {s t : State} {new : List Transaction} (h : t.bus = new ++ s.bus) :
    stepCost cycles s t =
      (if new.any Transaction.isFetchOp then cycles t.ir else 0) + 2 * (new.countP Transaction.isDataRead / 2) := by
  rw [stepCost, newTransactions_of_bus h]

/-- Between s and t the core made n data reads and no opcode fetch, and IR is the same. -/
def Reads (n : Nat) (s t : State) : Prop :=
  t.ir = s.ir ∧
    ∃ new, t.bus = new ++ s.bus ∧ new.any Transaction.isFetchOp = false ∧ new.countP Transaction.isDataRead = n

/-- The cost of a step that fetched an opcode and then made n data reads (R252, R91). -/
theorem stepCost_of_reads (cycles : Byte → Nat) {s u t : State} {n : Nat} (hb : u.bus = .fetchOp s.pc :: s.bus)
    (h : Reads n u t) : stepCost cycles s t = cycles u.ir + 2 * (n / 2) := by
  obtain ⟨hi, new, hn, hf, hc⟩ := h
  rw [stepCost_of_bus cycles (new := new ++ [.fetchOp s.pc]) (by rw [hn, hb]; simp)]
  simp [List.countP_append, hf, hc, hi, Transaction.isFetchOp, Transaction.isDataRead]

/-! ### Reads compose -/

theorem Reads.refl (s : State) : Reads 0 s s := ⟨rfl, [], rfl, rfl, rfl⟩

theorem Reads.trans {n m : Nat} {s t u : State} (h : Reads n s t) (k : Reads m t u) : Reads (n + m) s u := by
  obtain ⟨h1, a, h2, h3, h4⟩ := h
  obtain ⟨k1, b, k2, k3, k4⟩ := k
  refine ⟨k1.trans h1, b ++ a, by rw [k2, h2, List.append_assoc], by simp [h3, k3], ?_⟩
  rw [List.countP_append, h4, k4, Nat.add_comm]

theorem Reads.of_eq {n m : Nat} {s t : State} (h : Reads n s t) (e : n = m) : Reads m s t := e ▸ h

/-- An update that touches neither the record nor IR. -/
theorem Reads.keep {n : Nat} {s t u : State} (h : Reads n s t) (hb : u.bus = t.bus) (hi : u.ir = t.ir) : Reads n s u := by
  obtain ⟨h1, a, h2, h3, h4⟩ := h
  exact ⟨hi.trans h1, a, hb.trans h2, h3, h4⟩

/-- A recorded transaction that is no opcode fetch. -/
theorem Reads.record {n : Nat} {s t u : State} (h : Reads n s t) (x : Transaction) (hx : x.isFetchOp = false)
    (hb : u.bus = x :: t.bus) (hi : u.ir = t.ir) : Reads (n + if x.isDataRead then 1 else 0) s u := by
  obtain ⟨h1, a, h2, h3, h4⟩ := h
  exact ⟨hi.trans h1, x :: a, by rw [hb, h2]; rfl, by simp [hx, h3], by rw [List.countP_cons, h4]⟩

/-! ### The effective-address calculator: two reads when indirect (R84) -/

theorem reads_nextArg (s : State) : Reads 0 s s.nextArg := (Reads.refl s).record (.fetchArg s.pc) rfl rfl rfl

theorem reads_resolve (s : State) (a : Addr) (ind : Bool) : Reads (if ind then 2 else 0) s (s.resolve a ind) := by
  cases ind
  · exact (Reads.refl s).keep rfl rfl
  · have first : Reads 1 s (s.dataRead a) := (Reads.refl s).record (.dataRead a) rfl rfl rfl
    exact first.record (.dataRead (nextInPage a)) rfl rfl rfl

theorem reads_relEa (s : State) (a : RelArg) : Reads (if a.ind then 2 else 0) s (s.relEa a) :=
  ((reads_nextArg s).trans (reads_resolve _ _ _)).of_eq (Nat.zero_add _)

theorem reads_zeroEa (s : State) (a : RelArg) : Reads (if a.ind then 2 else 0) s (s.zeroEa a) :=
  ((reads_nextArg s).trans (reads_resolve _ _ _)).of_eq (Nat.zero_add _)

theorem reads_braEa (s : State) (a : BraArg) : Reads (if a.ind then 2 else 0) s (s.braEa a) :=
  (((reads_nextArg s).trans (reads_nextArg _)).trans (reads_resolve _ _ _)).of_eq (Nat.zero_add _)

theorem reads_braIndexedEa (s : State) (a : BraArg) : Reads (if a.ind then 2 else 0) s (s.braIndexedEa a) :=
  (reads_braEa s a).keep rfl rfl

theorem reads_absEa (s : State) (r : Reg) (a : AbsArg) : Reads (if a.ind then 2 else 0) s (s.absEa r a) := by
  have base : Reads (if a.ind then 2 else 0) s (s.absBase a) :=
    (((reads_nextArg s).trans (reads_nextArg _)).trans (reads_resolve _ _ _)).of_eq (Nat.zero_add _)
  have ir : (s.absEa r a).ir = s.ir := (frame_absEa 0 s r a).2.2.2.2.2.2.2.1
  have irBase : (s.absBase a).ir = s.ir := (frame_absBase [] 0 s a).2.2.2.2.2.2.2.1
  exact base.keep (State.absEa_bus s r a) (ir.trans irBase.symm)

/-! ### Operands: one read more (R41) -/

theorem reads_relOperand (s : State) (a : RelArg) : Reads ((if a.ind then 2 else 0) + 1) s (s.relOperand a).state :=
  (reads_relEa s a).record (.dataRead (s.relEa a).ea) rfl rfl rfl

theorem reads_absOperand (s : State) (r : Reg) (a : AbsArg) :
    Reads ((if a.ind then 2 else 0) + 1) s (s.absOperand r a).state :=
  (reads_absEa s r a).record (.dataRead (s.absEa r a).ea) rfl rfl rfl

/-! ### Ports: no data read (R45) -/

theorem reads_portOperand (s : State) (p : Port) : Reads 0 s (s.portOperand p).state :=
  (Reads.refl s).record (.portRead p) rfl rfl rfl

theorem reads_portWrite (s : State) (p : Port) (v : Byte) : Reads 0 s (s.portWrite p v) :=
  (Reads.refl s).record (.portWrite p v) rfl rfl rfl

/-! ### Results: no transaction -/

theorem Reads.load {n : Nat} {s : State} {o : Operand} (h : Reads n s o.state) (d : Reg) : Reads n s (o.load d) :=
  h.keep (by simp [Operand.load]) (by simp [Operand.load])

theorem Reads.logical {n : Nat} {s : State} {o : Operand} (h : Reads n s o.state) (d : Reg) (v : Byte) :
    Reads n s (o.logical d v) :=
  h.keep (by simp [Operand.logical]) (by simp [Operand.logical])

theorem Reads.addInto {n : Nat} {s : State} {o : Operand} (h : Reads n s o.state) (d : Reg) : Reads n s (o.addInto d) :=
  h.keep (by simp [Operand.addInto, State.writeAlu]) (by simp [Operand.addInto, State.writeAlu])

theorem Reads.subFrom {n : Nat} {s : State} {o : Operand} (h : Reads n s o.state) (d : Reg) : Reads n s (o.subFrom d) :=
  h.keep (by simp [Operand.subFrom, State.writeAlu]) (by simp [Operand.subFrom, State.writeAlu])

theorem Reads.compareWith {n : Nat} {s : State} {o : Operand} (h : Reads n s o.state) (d : Reg) :
    Reads n s (o.compareWith d) :=
  h.keep (by simp [Operand.compareWith]) (by simp [Operand.compareWith])

/-! ### Branches and calls: two reads when taken and indirect (R166) -/

theorem Reads.branchRel {s t : State} (h : Reads 0 s t) (taken : Bool) (a : RelArg) :
    Reads (if a.ind = true ∧ taken = true then 2 else 0) s (t.branchRel taken a) := by
  cases taken
  · exact (h.keep (u := t.advance 1) rfl rfl).of_eq (by simp)
  · exact ((h.trans (reads_relEa t a)).keep (u := (t.relEa a).jump) rfl rfl).of_eq (by simp)

theorem Reads.branchAbs {s t : State} (h : Reads 0 s t) (taken : Bool) (a : BraArg) :
    Reads (if a.ind = true ∧ taken = true then 2 else 0) s (t.branchAbs taken a) := by
  cases taken
  · exact (h.keep (u := t.advance 2) rfl rfl).of_eq (by simp)
  · exact ((h.trans (reads_braEa t a)).keep (u := (t.braEa a).jump) rfl rfl).of_eq (by simp)

theorem reads_callRel (s : State) (taken : Bool) (a : RelArg) :
    Reads (if a.ind = true ∧ taken = true then 2 else 0) s (s.callRel taken a) := by
  cases taken
  · exact ((Reads.refl s).keep (u := s.advance 1) rfl rfl).of_eq (by simp)
  · exact ((reads_relEa s a).keep (u := (s.relEa a).callEa) rfl rfl).of_eq (by simp)

theorem reads_callAbs (s : State) (taken : Bool) (a : BraArg) :
    Reads (if a.ind = true ∧ taken = true then 2 else 0) s (s.callAbs taken a) := by
  cases taken
  · exact ((Reads.refl s).keep (u := s.advance 2) rfl rfl).of_eq (by simp)
  · exact ((reads_braEa s a).keep (u := (s.braEa a).callEa) rfl rfl).of_eq (by simp)

/-- The step of a counting branch makes no transaction (R175). -/
theorem reads_stepReg (s : State) (r : Reg) (k : Byte) : Reads 0 s (s.stepReg r k) :=
  (Reads.refl s).keep (by simp [State.stepReg]) (by simp [State.stepReg])

end Sys2Proof.Machine
end

