-- ==== Sys2Proof/Tests/Slice0.lean ====
section
/-!
SUPPORT. Tests: what WellFormed refuses; single steps with the start and end states of spec/95_test_vectors.md (the
vector is named in each docstring) or of a rule's example; and a witness for the hypotheses of every statement that has
some.
-/

namespace Sys2Proof.Tests

open Sys2Proof Sys2Proof.Machine

-- one theorem at a time: each kernel evaluation would otherwise hold a thread of its own
set_option Elab.async false

/-! ### What WellFormed refuses -/

/-- 0x40 is HALT, not ANDZ with register 0 (R71). -/
theorem test_wf_refuses_andz_r0 : (Instr.andz .r0).wf = false := by decide

/-- 0xC0 is NOP, not STRZ with register 0 (R71). -/
theorem test_wf_refuses_strz_r0 : (Instr.strz .r0).wf = false := by decide

/-- 0x9B is ZBRR, not BCFR with selector 3 (R71). -/
theorem test_wf_refuses_bcfr_always : (Instr.bcfr .always ⟨false, 0x10⟩).wf = false := by decide

/-- 0x9F is BXA, not BCFA with selector 3 (R71). -/
theorem test_wf_refuses_bcfa_always : (Instr.bcfa .always ⟨false, 0x0010⟩).wf = false := by decide

/-- 0xBB is ZBSR, not BSFR with selector 3 (R71). -/
theorem test_wf_refuses_bsfr_always : (Instr.bsfr .always ⟨false, 0x10⟩).wf = false := by decide

/-- 0xBF is BSXA, not BSFA with selector 3 (R71). -/
theorem test_wf_refuses_bsfa_always : (Instr.bsfa .always ⟨false, 0x0010⟩).wf = false := by decide

/-- 0x00 is LODZ, not an illegal opcode (R72). -/
theorem test_wf_refuses_illegal_0x00 : (Instr.illegal 0x00).wf = false := by decide

/-- The words of the ill-formed terms are the other instructions' (R71). -/
theorem test_ill_formed_words_are_other_instructions :
    decode [0b01000000] = .instr .halt [] ∧ decode [0b11000000] = .instr .nop [] ∧
      decode [0b10011011, 0x10] = .instr (.zbrr ⟨false, 0x10⟩) [] ∧
      decode [0b10011111, 0x00, 0x10] = .instr (.bxa ⟨false, 0x0010⟩) [] ∧
      decode [0b10111011, 0x10] = .instr (.zbsr ⟨false, 0x10⟩) [] ∧
      decode [0b10111111, 0x00, 0x10] = .instr (.bsxa ⟨false, 0x0010⟩) [] := by
  decide

/-- Missing bytes are rejected by name. -/
theorem test_decode_rejects_missing_bytes :
    decode [] = .rejected .noOpcode ∧ decode [0x04] = .rejected .missingArgument ∧
      decode [0x0C, 0x00] = .rejected .missingArgument := by
  decide

/-- The table's numbering: byte 0 in bits 7:0; bits above nbits are 0. -/
theorem test_table_word :
    decodeTableWord 24 0x23A10D = some (.loda .r1 ⟨true, .autoInc, 0x0123⟩) ∧
      decodeTableWord 8 0x05 = some (.lodi .r1 0x00) ∧ decodeTableWord 8 0xFF40 = some .halt := by
  decide

/-! ### Helpers -/

/-- The state with the program counter at pc, the code bytes there (wrapping in the page) and the data bytes stored. -/
def start (pc : Addr) (code : List Byte) (data : List (Addr × Byte)) (s : State) : State :=
  let withData := data.foldl (fun (m : Memory) p => m.write p.1.toNat p.2) s.mem
  let place := code.foldl (fun (q : Memory × Addr) b => (q.1.write q.2.toNat b, nextInPage q.2)) (withData, pc)
  { s with page := pageOf pc, offset := offsetOf pc, mem := place.1 }

/-- The state after one step (every step answers a next state). -/
def ran (s : State) : State :=
  match step s with
  | .next t => t
  | .fault _ => s
  | .refused _ => s

/-! ### Single instructions -/

/-- V27. -/
theorem test_lodz_V27 :
    let t := ran (start 0x0000 [0x02] [] { State.reset with bank0 := ⟨0x00, 0x80, 0x00⟩ })
    t.r0 = 0x80 ∧ t.psl = 0x8A ∧ t.psu = 0x80 ∧ t.pc = 0x0001 := by
  decide +kernel

/-- V28. -/
theorem test_lodz_V28 :
    let t := ran (start 0x0000 [0x00] [] { State.reset with r0 := 0x00, psl := 0x4A })
    t.psl = 0x0A ∧ t.psu = 0x80 ∧ t.pc = 0x0001 := by
  decide +kernel

/-- V2. -/
theorem test_lodi_V2 :
    let t := ran (start 0x0000 [0x05, 0x7F] [] State.reset)
    t.bank0.r1 = 0x7F ∧ t.psl = 0x4A ∧ t.psu = 0x80 ∧ t.pc = 0x0002 := by
  decide +kernel

/-- V29. -/
theorem test_lodi_V29 :
    let t := ran (start 0x0000 [0x06, 0x00] [] { State.reset with bank0 := ⟨0x00, 0x55, 0x00⟩, psl := 0x8A })
    t.bank0.r2 = 0x00 ∧ t.psl = 0x0A ∧ t.psu = 0x80 ∧ t.pc = 0x0002 := by
  decide +kernel

/-- V13. -/
theorem test_lodr_V13 :
    let t := ran (start 0x3FE0 [0x09, 0x3F] [(0x2021, 0x5A), (0x4021, 0xBD)] State.reset)
    t.bank0.r1 = 0x5A ∧ t.psl = 0x4A ∧ t.psu = 0x80 ∧ t.pc = 0x3FE2 := by
  decide +kernel

/-- V31. -/
theorem test_lodr_V31 :
    let t := ran (start 0x0100 [0x09, 0x10] [(0x0112, 0x33)] State.reset)
    t.bank0.r1 = 0x33 ∧ t.psl = 0x4A ∧ t.psu = 0x80 ∧ t.pc = 0x0102 := by
  decide +kernel

/-- V22. -/
theorem test_loda_V22 :
    let t := ran (start 0x0000 [0x0D, 0x21, 0x00] [(0x0105, 0x11), (0x0106, 0x22)] { State.reset with bank0 := ⟨0x05, 0x00, 0x00⟩, params := ⟨.pre, Config.darDefault⟩ })
    t.r0 = 0x22 ∧ t.bank0.r1 = 0x06 ∧ t.psl = 0x4A ∧ t.psu = 0x80 ∧ t.pc = 0x0003 := by
  decide +kernel

/-- V24. -/
theorem test_loda_V24 :
    let t := ran (start 0x0000 [0x0D, 0x41, 0x00] [(0x0104, 0x44), (0x0105, 0x11)] { State.reset with bank0 := ⟨0x05, 0x00, 0x00⟩, params := ⟨.pre, Config.darDefault⟩ })
    t.r0 = 0x44 ∧ t.bank0.r1 = 0x04 ∧ t.psl = 0x4A ∧ t.psu = 0x80 ∧ t.pc = 0x0003 := by
  decide +kernel

/-- V98. -/
theorem test_spsu_V98 :
    let t := ran (start 0x0000 [0x12] [] { State.reset with psu := 0xE5 })
    t.r0 = 0xE5 ∧ t.psl = 0x8A ∧ t.psu = 0xE5 ∧ t.pc = 0x0001 := by
  decide +kernel

/-- V99. -/
theorem test_spsl_V99 :
    let t := ran (start 0x0000 [0x13] [] { State.reset with psl := 0x0A })
    t.r0 = 0x0A ∧ t.psl = 0x4A ∧ t.psu = 0x80 ∧ t.pc = 0x0001 := by
  decide +kernel

/-- V100. -/
theorem test_spsl_V100 :
    let t := ran (start 0x0000 [0x13] [] { State.reset with psl := 0xC1 })
    t.r0 = 0xC1 ∧ t.psl = 0x81 ∧ t.psu = 0x80 ∧ t.pc = 0x0001 := by
  decide +kernel

/-- V162. -/
theorem test_retc_V162 :
    let t := ran (start 0x0000 [0x17] [] { State.reset with psu := 0x81, ras := State.reset.ras.set 0 0x1234 })
    t.psl = 0x0A ∧ t.psu = 0x80 ∧ t.pc = 0x1234 := by
  decide +kernel

/-- V163. -/
theorem test_retc_V163 :
    let t := ran (start 0x0000 [0x14] [] { State.reset with psl := 0x4A, psu := 0x81, ras := State.reset.ras.set 0 0x1234 })
    t.psl = 0x4A ∧ t.psu = 0x81 ∧ t.pc = 0x0001 := by
  decide +kernel

/-- V4. -/
theorem test_bctr_V4 :
    let t := ran (start 0x0000 [0x1B, 0x81] [(0x0003, 0x21), (0x0004, 0x34)] State.reset)
    t.psl = 0x0A ∧ t.psu = 0x80 ∧ t.pc = 0x2134 := by
  decide +kernel

/-- V5. -/
theorem test_bctr_V5 :
    let t := ran (start 0x1FFC [0x1B, 0x81] [(0x0000, 0x23), (0x1FFF, 0x41)] State.reset)
    t.psl = 0x0A ∧ t.psu = 0x80 ∧ t.pc = 0x4123 := by
  decide +kernel

/-- V125. -/
theorem test_bcta_V125 :
    let t := ran (start 0x0000 [0x1D, 0x45, 0x67] [] { State.reset with psl := 0x4A })
    t.psl = 0x4A ∧ t.psu = 0x80 ∧ t.pc = 0x4567 := by
  decide +kernel

/-- V126. -/
theorem test_bcta_V126 :
    let t := ran (start 0x0000 [0x1F, 0xC5, 0x67] [(0x4567, 0x7A), (0x4568, 0xBC)] State.reset)
    t.psl = 0x0A ∧ t.psu = 0x80 ∧ t.pc = 0x7ABC := by
  decide +kernel

/-- V51. -/
theorem test_eorz_V51 :
    let t := ran (start 0x0000 [0x21] [] { State.reset with bank0 := ⟨0x0F, 0x00, 0x00⟩, r0 := 0xFF })
    t.r0 = 0xF0 ∧ t.psl = 0x8A ∧ t.psu = 0x80 ∧ t.pc = 0x0001 := by
  decide +kernel

/-- V52. -/
theorem test_eorz_V52 :
    let t := ran (start 0x0000 [0x20] [] { State.reset with r0 := 0x5A })
    t.r0 = 0x00 ∧ t.psl = 0x0A ∧ t.psu = 0x80 ∧ t.pc = 0x0001 := by
  decide +kernel

/-- V53. -/
theorem test_eori_V53 :
    let t := ran (start 0x0000 [0x26, 0xFF] [] { State.reset with bank0 := ⟨0x00, 0x7F, 0x00⟩ })
    t.bank0.r2 = 0x80 ∧ t.psl = 0x8A ∧ t.psu = 0x80 ∧ t.pc = 0x0002 := by
  decide +kernel

/-- V54. -/
theorem test_eorr_V54 :
    let t := ran (start 0x0100 [0x2A, 0x00] [(0x0102, 0x55)] { State.reset with bank0 := ⟨0x00, 0x55, 0x00⟩ })
    t.bank0.r2 = 0x00 ∧ t.psl = 0x0A ∧ t.psu = 0x80 ∧ t.pc = 0x0102 := by
  decide +kernel

/-- V55. -/
theorem test_eora_V55 :
    let t := ran (start 0x0000 [0x2D, 0x03, 0x00] [(0x0300, 0xAA)] { State.reset with bank0 := ⟨0xAA, 0x00, 0x00⟩ })
    t.bank0.r1 = 0x00 ∧ t.psl = 0x0A ∧ t.psu = 0x80 ∧ t.pc = 0x0003 := by
  decide +kernel

/-- V168. -/
theorem test_redc_V168 :
    let t := ran (start 0x0000 [0x31] [] { State.reset with portIn := [0x80] })
    t.bank0.r1 = 0x80 ∧ t.psl = 0x8A ∧ t.psu = 0x80 ∧ t.pc = 0x0001 := by
  decide +kernel

/-- V165. -/
theorem test_rete_V165 :
    let t := ran (start 0x0000 [0x37] [] { State.reset with psu := 0xA2, ras := State.reset.ras.set 1 0x0456 })
    t.psl = 0x0A ∧ t.psu = 0x81 ∧ t.pc = 0x0456 := by
  decide +kernel

/-- V166. -/
theorem test_rete_V166 :
    let t := ran (start 0x0000 [0x35] [] { State.reset with psu := 0xA2, ras := State.reset.ras.set 1 0x0456 })
    t.psl = 0x0A ∧ t.psu = 0xA2 ∧ t.pc = 0x0001 := by
  decide +kernel

/-- V149. -/
theorem test_bstr_V149 :
    let t := ran (start 0x0100 [0x3B, 0x10] [] State.reset)
    t.ras[0] = 0x0102 ∧ t.psl = 0x0A ∧ t.psu = 0x81 ∧ t.pc = 0x0112 := by
  decide +kernel

/-- V151. -/
theorem test_bstr_V151 :
    let t := ran (start 0x3FFE [0x3B, 0x00] [] State.reset)
    t.ras[0] = 0x2000 ∧ t.psl = 0x0A ∧ t.psu = 0x81 ∧ t.pc = 0x2000 := by
  decide +kernel

/-- V152. -/
theorem test_bsta_V152 :
    let t := ran (start 0x0200 [0x3F, 0x41, 0x00] [] { State.reset with psu := 0x87 })
    t.ras[7] = 0x0203 ∧ t.psl = 0x0A ∧ t.psu = 0x80 ∧ t.pc = 0x4100 := by
  decide +kernel

/-- V153. -/
theorem test_bsta_V153 :
    let t := ran (start 0x0200 [0x3F, 0x81, 0x00] [(0x0100, 0x00), (0x0101, 0x50)] State.reset)
    t.ras[0] = 0x0203 ∧ t.psl = 0x0A ∧ t.psu = 0x81 ∧ t.pc = 0x0050 := by
  decide +kernel

/-- V177. -/
theorem test_halt_V177 :
    let t := ran (start 0x0123 [0x40] [] State.reset)
    t.halted = true ∧ t.psl = 0x0A ∧ t.psu = 0x80 ∧ t.pc = 0x0123 := by
  decide +kernel

/-- V47. -/
theorem test_andz_V47 :
    let t := ran (start 0x0000 [0x41] [] { State.reset with bank0 := ⟨0x3C, 0x00, 0x00⟩, r0 := 0xF0 })
    t.r0 = 0x30 ∧ t.psl = 0x4A ∧ t.psu = 0x80 ∧ t.pc = 0x0001 := by
  decide +kernel

/-- V48. -/
theorem test_andi_V48 :
    let t := ran (start 0x0000 [0x46, 0x0F] [] { State.reset with bank0 := ⟨0x00, 0xF0, 0x00⟩ })
    t.bank0.r2 = 0x00 ∧ t.psl = 0x0A ∧ t.psu = 0x80 ∧ t.pc = 0x0002 := by
  decide +kernel

/-- V49. -/
theorem test_andr_V49 :
    let t := ran (start 0x0200 [0x49, 0x02] [(0x0204, 0x81)] { State.reset with bank0 := ⟨0xFF, 0x00, 0x00⟩ })
    t.bank0.r1 = 0x81 ∧ t.psl = 0x8A ∧ t.psu = 0x80 ∧ t.pc = 0x0202 := by
  decide +kernel

/-- V50. -/
theorem test_anda_V50 :
    let t := ran (start 0x0000 [0x4D, 0x03, 0x00] [(0x0300, 0x0F)] { State.reset with bank0 := ⟨0x3C, 0x00, 0x00⟩ })
    t.bank0.r1 = 0x0C ∧ t.psl = 0x4A ∧ t.psu = 0x80 ∧ t.pc = 0x0003 := by
  decide +kernel

/-- V91. -/
theorem test_rrr_V91 :
    let t := ran (start 0x0000 [0x51] [] { State.reset with bank0 := ⟨0x81, 0x00, 0x00⟩, psl := 0x02 })
    t.bank0.r1 = 0xC0 ∧ t.psl = 0x82 ∧ t.psu = 0x80 ∧ t.pc = 0x0001 := by
  decide +kernel

/-- V94. -/
theorem test_rrr_V94 :
    let t := ran (start 0x0000 [0x51] [] { State.reset with bank0 := ⟨0x01, 0x00, 0x00⟩, psl := 0x0A })
    t.bank0.r1 = 0x00 ∧ t.psl = 0x2B ∧ t.psu = 0x80 ∧ t.pc = 0x0001 := by
  decide +kernel

/-- V170. -/
theorem test_rede_V170 :
    let t := ran (start 0x0000 [0x56, 0x42] [] { State.reset with portIn := [0x7F] })
    t.bank0.r2 = 0x7F ∧ t.psl = 0x4A ∧ t.psu = 0x80 ∧ t.pc = 0x0002 := by
  decide +kernel

/-- V171. -/
theorem test_rede_V171 :
    let t := ran (start 0x0000 [0x56, 0x00] [] { State.reset with portIn := [0x9C] })
    t.bank0.r2 = 0x9C ∧ t.psl = 0x8A ∧ t.psu = 0x80 ∧ t.pc = 0x0002 := by
  decide +kernel

/-- V19. -/
theorem test_brnr_V19 :
    let t := ran (start 0x0000 [0x59, 0x10] [] { State.reset with bank0 := ⟨0x01, 0x00, 0x00⟩ })
    t.psl = 0x0A ∧ t.psu = 0x80 ∧ t.pc = 0x0012 := by
  decide +kernel

/-- V141. -/
theorem test_brnr_V141 :
    let t := ran (start 0x0100 [0x5A, 0x05] [] { State.reset with bank0 := ⟨0x00, 0x80, 0x00⟩ })
    t.psl = 0x0A ∧ t.psu = 0x80 ∧ t.pc = 0x0107 := by
  decide +kernel

/-- V142. -/
theorem test_brna_V142 :
    let t := ran (start 0x0000 [0x5C, 0x12, 0x34] [] { State.reset with r0 := 0x00 })
    t.psl = 0x0A ∧ t.psu = 0x80 ∧ t.pc = 0x0003 := by
  decide +kernel

/-- V143. -/
theorem test_brna_V143 :
    let t := ran (start 0x0000 [0x5C, 0x12, 0x34] [] { State.reset with r0 := 0x01 })
    t.psl = 0x0A ∧ t.psu = 0x80 ∧ t.pc = 0x1234 := by
  decide +kernel

/-- V56. -/
theorem test_iorz_V56 :
    let t := ran (start 0x0000 [0x62] [] { State.reset with bank0 := ⟨0x00, 0x80, 0x00⟩, r0 := 0x01 })
    t.r0 = 0x81 ∧ t.psl = 0x8A ∧ t.psu = 0x80 ∧ t.pc = 0x0001 := by
  decide +kernel

/-- V57. -/
theorem test_iorz_V57 :
    let t := ran (start 0x0000 [0x60] [] { State.reset with r0 := 0x00, psl := 0x8A })
    t.psl = 0x0A ∧ t.psu = 0x80 ∧ t.pc = 0x0001 := by
  decide +kernel

/-- V58. -/
theorem test_iori_V58 :
    let t := ran (start 0x0000 [0x65, 0x0F] [] { State.reset with bank0 := ⟨0x30, 0x00, 0x00⟩ })
    t.bank0.r1 = 0x3F ∧ t.psl = 0x4A ∧ t.psu = 0x80 ∧ t.pc = 0x0002 := by
  decide +kernel

/-- V59. -/
theorem test_iorr_V59 :
    let t := ran (start 0x0100 [0x6B, 0x81] [(0x0103, 0x02), (0x0104, 0x00), (0x0200, 0x40)] { State.reset with bank0 := ⟨0x00, 0x00, 0x01⟩ })
    t.bank0.r3 = 0x41 ∧ t.psl = 0x4A ∧ t.psu = 0x80 ∧ t.pc = 0x0102 := by
  decide +kernel

/-- V60. -/
theorem test_iora_V60 :
    let t := ran (start 0x0000 [0x6E, 0x63, 0x00] [(0x0310, 0xF0)] { State.reset with bank0 := ⟨0x00, 0x10, 0x00⟩, r0 := 0x0F })
    t.r0 = 0xFF ∧ t.psl = 0x8A ∧ t.psu = 0x80 ∧ t.pc = 0x0003 := by
  decide +kernel

/-- V169. -/
theorem test_redd_V169 :
    let t := ran (start 0x0000 [0x70] [] { State.reset with r0 := 0x55, psl := 0x8A, portIn := [0x00] })
    t.r0 = 0x00 ∧ t.psl = 0x0A ∧ t.psu = 0x80 ∧ t.pc = 0x0001 := by
  decide +kernel

/-- V104. -/
theorem test_cpsu_V104 :
    let t := ran (start 0x0000 [0x74, 0xFF] [] { State.reset with psu := 0xE7 })
    t.psl = 0x0A ∧ t.psu = 0x00 ∧ t.pc = 0x0002 := by
  decide +kernel

/-- V105. -/
theorem test_cpsu_V105 :
    let t := ran (start 0x0000 [0x74, 0x20] [] { State.reset with psu := 0xA3 })
    t.psl = 0x0A ∧ t.psu = 0x83 ∧ t.pc = 0x0002 := by
  decide +kernel

/-- V106. -/
theorem test_cpsl_V106 :
    let t := ran (start 0x0000 [0x75, 0x09] [] { State.reset with psl := 0xFF })
    t.psl = 0xF6 ∧ t.psu = 0x80 ∧ t.pc = 0x0002 := by
  decide +kernel

/-- V107. -/
theorem test_ppsu_V107 :
    let t := ran (start 0x0000 [0x76, 0x78] [] State.reset)
    t.psl = 0x0A ∧ t.psu = 0xE0 ∧ t.pc = 0x0002 := by
  decide +kernel

/-- V108. -/
theorem test_ppsu_V108 :
    let t := ran (start 0x0000 [0x76, 0x07] [] { State.reset with psu := 0x82 })
    t.psl = 0x0A ∧ t.psu = 0x87 ∧ t.pc = 0x0002 := by
  decide +kernel

/-- V109. -/
theorem test_ppsl_V109 :
    let t := ran (start 0x0000 [0x77, 0xC0] [] State.reset)
    t.psl = 0xCA ∧ t.psu = 0x80 ∧ t.pc = 0x0002 := by
  decide +kernel

/-- V159. -/
theorem test_bsnr_V159 :
    let t := ran (start 0x0100 [0x79, 0x10] [] { State.reset with bank0 := ⟨0x01, 0x00, 0x00⟩ })
    t.ras[0] = 0x0102 ∧ t.psl = 0x0A ∧ t.psu = 0x81 ∧ t.pc = 0x0112 := by
  decide +kernel

/-- V160. -/
theorem test_bsnr_V160 :
    let t := ran (start 0x0100 [0x79, 0x10] [] { State.reset with bank0 := ⟨0x00, 0x00, 0x00⟩ })
    t.psl = 0x0A ∧ t.psu = 0x80 ∧ t.pc = 0x0102 := by
  decide +kernel

/-- V161. -/
theorem test_bsna_V161 :
    let t := ran (start 0x0000 [0x7E, 0x22, 0x22] [] { State.reset with bank0 := ⟨0x00, 0xFF, 0x00⟩ })
    t.ras[0] = 0x0003 ∧ t.psl = 0x0A ∧ t.psu = 0x81 ∧ t.pc = 0x2222 := by
  decide +kernel

/-- V61. -/
theorem test_addz_V61 :
    let t := ran (start 0x0000 [0x81] [] { State.reset with bank0 := ⟨0x01, 0x00, 0x00⟩, r0 := 0x7F, psl := 0x02 })
    t.r0 = 0x80 ∧ t.psl = 0xA6 ∧ t.psu = 0x80 ∧ t.pc = 0x0001 := by
  decide +kernel

/-- V3. -/
theorem test_addi_V3 :
    let t := ran (start 0x0000 [0x85, 0x03] [] { State.reset with bank0 := ⟨0x05, 0x00, 0x00⟩, psl := 0x03 })
    t.bank0.r1 = 0x08 ∧ t.psl = 0x42 ∧ t.psu = 0x80 ∧ t.pc = 0x0002 := by
  decide +kernel

/-- V62. -/
theorem test_addi_V62 :
    let t := ran (start 0x0000 [0x84, 0x20] [] { State.reset with r0 := 0xF0, psl := 0x02 })
    t.r0 = 0x10 ∧ t.psl = 0x47 ∧ t.psu = 0x80 ∧ t.pc = 0x0002 := by
  decide +kernel

/-- V68. -/
theorem test_addr_V68 :
    let t := ran (start 0x0100 [0x89, 0x02] [(0x0104, 0x7F)] { State.reset with bank0 := ⟨0x01, 0x00, 0x00⟩, psl := 0x02 })
    t.bank0.r1 = 0x80 ∧ t.psl = 0xA6 ∧ t.psu = 0x80 ∧ t.pc = 0x0102 := by
  decide +kernel

/-- V69. -/
theorem test_adda_V69 :
    let t := ran (start 0x0000 [0x8E, 0x61, 0x00] [(0x0102, 0x22)] { State.reset with bank0 := ⟨0x00, 0x02, 0x00⟩, r0 := 0x10, psl := 0x02 })
    t.r0 = 0x32 ∧ t.psl = 0x42 ∧ t.psu = 0x80 ∧ t.pc = 0x0003 := by
  decide +kernel

/-- V101. -/
theorem test_lpsu_V101 :
    let t := ran (start 0x0000 [0x92] [] { State.reset with r0 := 0xFF })
    t.psl = 0x0A ∧ t.psu = 0xE7 ∧ t.pc = 0x0001 := by
  decide +kernel

/-- V102. -/
theorem test_lpsu_V102 :
    let t := ran (start 0x0000 [0x92] [] { State.reset with r0 := 0x00 })
    t.psl = 0x0A ∧ t.psu = 0x00 ∧ t.pc = 0x0001 := by
  decide +kernel

/-- V103. -/
theorem test_lpsl_V103 :
    let t := ran (start 0x0000 [0x93] [] { State.reset with r0 := 0xD5 })
    t.psl = 0xD5 ∧ t.psu = 0x80 ∧ t.pc = 0x0001 := by
  decide +kernel

/-- V7. -/
theorem test_dar_V7 :
    let t := ran (start 0x0000 [0x95] [] { State.reset with bank0 := ⟨0x9B, 0x00, 0x00⟩, psl := 0x0B })
    t.bank0.r1 = 0x95 ∧ t.psl = 0x0B ∧ t.psu = 0x80 ∧ t.pc = 0x0001 := by
  decide +kernel

/-- V8. -/
theorem test_dar_V8 :
    let t := ran (start 0x0000 [0x95] [] { State.reset with bank0 := ⟨0x9B, 0x00, 0x00⟩, psl := 0x2A })
    t.bank0.r1 = 0x3B ∧ t.psl = 0x2A ∧ t.psu = 0x80 ∧ t.pc = 0x0001 := by
  decide +kernel

/-- V130. -/
theorem test_bcfr_V130 :
    let t := ran (start 0x0100 [0x98, 0x05] [] State.reset)
    t.psl = 0x0A ∧ t.psu = 0x80 ∧ t.pc = 0x0102 := by
  decide +kernel

/-- V132. -/
theorem test_bcfr_V132 :
    let t := ran (start 0x0100 [0x9A, 0x05] [] { State.reset with psl := 0xCA })
    t.psl = 0xCA ∧ t.psu = 0x80 ∧ t.pc = 0x0107 := by
  decide +kernel

/-- V135. -/
theorem test_zbrr_V135 :
    let t := ran (start 0x4100 [0x9B, 0x10] [] State.reset)
    t.psl = 0x0A ∧ t.psu = 0x80 ∧ t.pc = 0x0010 := by
  decide +kernel

/-- V137. -/
theorem test_zbrr_V137 :
    let t := ran (start 0x4100 [0x9B, 0x83] [(0x0003, 0x21), (0x0004, 0x00)] State.reset)
    t.psl = 0x0A ∧ t.psu = 0x80 ∧ t.pc = 0x2100 := by
  decide +kernel

/-- V133. -/
theorem test_bcfa_V133 :
    let t := ran (start 0x0000 [0x9D, 0x20, 0x00] [] { State.reset with psl := 0x4A })
    t.psl = 0x4A ∧ t.psu = 0x80 ∧ t.pc = 0x0003 := by
  decide +kernel

/-- V134. -/
theorem test_bcfa_V134 :
    let t := ran (start 0x0000 [0x9E, 0x20, 0x00] [] { State.reset with psl := 0x4A })
    t.psl = 0x4A ∧ t.psu = 0x80 ∧ t.pc = 0x2000 := by
  decide +kernel

/-- V138. -/
theorem test_bxa_V138 :
    let t := ran (start 0x0000 [0x9F, 0x12, 0x00] [] { State.reset with bank0 := ⟨0x00, 0x00, 0x34⟩ })
    t.psl = 0x0A ∧ t.psu = 0x80 ∧ t.pc = 0x1234 := by
  decide +kernel

/-- V140. -/
theorem test_bxa_V140 :
    let t := ran (start 0x0000 [0x9F, 0x80, 0x10] [(0x0010, 0x20), (0x0011, 0xF8)] { State.reset with bank0 := ⟨0x00, 0x00, 0x10⟩, bank1 := ⟨0x00, 0x00, 0x99⟩ })
    t.psl = 0x0A ∧ t.psu = 0x80 ∧ t.pc = 0x2108 := by
  decide +kernel

/-- V70. -/
theorem test_subz_V70 :
    let t := ran (start 0x0000 [0xA1] [] { State.reset with bank0 := ⟨0x05, 0x00, 0x00⟩, r0 := 0x05, psl := 0x02 })
    t.r0 = 0x00 ∧ t.psl = 0x23 ∧ t.psu = 0x80 ∧ t.pc = 0x0001 := by
  decide +kernel

/-- V71. -/
theorem test_subi_V71 :
    let t := ran (start 0x0000 [0xA4, 0x01] [] { State.reset with r0 := 0x00, psl := 0x02 })
    t.r0 = 0xFF ∧ t.psl = 0x86 ∧ t.psu = 0x80 ∧ t.pc = 0x0002 := by
  decide +kernel

/-- V72. -/
theorem test_subi_V72 :
    let t := ran (start 0x0000 [0xA4, 0x01] [] { State.reset with r0 := 0x10, psl := 0x0A })
    t.r0 = 0x0E ∧ t.psl = 0x4B ∧ t.psu = 0x80 ∧ t.pc = 0x0002 := by
  decide +kernel

/-- V76. -/
theorem test_subr_V76 :
    let t := ran (start 0x0100 [0xA9, 0x00] [(0x0102, 0x60)] { State.reset with bank0 := ⟨0x50, 0x00, 0x00⟩, psl := 0x02 })
    t.bank0.r1 = 0xF0 ∧ t.psl = 0xA6 ∧ t.psu = 0x80 ∧ t.pc = 0x0102 := by
  decide +kernel

/-- V77. -/
theorem test_suba_V77 :
    let t := ran (start 0x0000 [0xAD, 0x02, 0x00] [(0x0200, 0x11)] { State.reset with bank0 := ⟨0x33, 0x00, 0x00⟩, psl := 0x02 })
    t.bank0.r1 = 0x22 ∧ t.psl = 0x63 ∧ t.psu = 0x80 ∧ t.pc = 0x0003 := by
  decide +kernel

/-- V172. -/
theorem test_wrtc_V172 :
    let t := ran (start 0x0000 [0xB2] [] { State.reset with bank0 := ⟨0x00, 0x3C, 0x00⟩ })
    t.psl = 0x0A ∧ t.psu = 0x80 ∧ t.pc = 0x0001 ∧ t.bus.head? = some (.portWrite .control 0x3C) := by
  decide +kernel

/-- V112. -/
theorem test_tpsu_V112 :
    let t := ran (start 0x0000 [0xB4, 0xA0] [] State.reset)
    t.psl = 0x8A ∧ t.psu = 0x80 ∧ t.pc = 0x0002 := by
  decide +kernel

/-- V114. -/
theorem test_tpsu_V114 :
    let t := ran (start 0x0000 [0xB4, 0x00] [] { State.reset with psl := 0x8A })
    t.psl = 0x0A ∧ t.psu = 0x80 ∧ t.pc = 0x0002 := by
  decide +kernel

/-- V115. -/
theorem test_tpsl_V115 :
    let t := ran (start 0x0000 [0xB5, 0x0A] [] State.reset)
    t.psl = 0x0A ∧ t.psu = 0x80 ∧ t.pc = 0x0002 := by
  decide +kernel

/-- V116. -/
theorem test_tpsl_V116 :
    let t := ran (start 0x0000 [0xB5, 0xC0] [] { State.reset with psl := 0x4A })
    t.psl = 0x8A ∧ t.psu = 0x80 ∧ t.pc = 0x0002 := by
  decide +kernel

/-- V154. -/
theorem test_bsfr_V154 :
    let t := ran (start 0x0100 [0xB8, 0x10] [] State.reset)
    t.psl = 0x0A ∧ t.psu = 0x80 ∧ t.pc = 0x0102 := by
  decide +kernel

/-- V155. -/
theorem test_bsfr_V155 :
    let t := ran (start 0x0100 [0xB9, 0x10] [] State.reset)
    t.ras[0] = 0x0102 ∧ t.psl = 0x0A ∧ t.psu = 0x81 ∧ t.pc = 0x0112 := by
  decide +kernel

/-- V157. -/
theorem test_zbsr_V157 :
    let t := ran (start 0x2345 [0xBB, 0x20] [] State.reset)
    t.ras[0] = 0x2347 ∧ t.psl = 0x0A ∧ t.psu = 0x81 ∧ t.pc = 0x0020 := by
  decide +kernel

/-- V156. -/
theorem test_bsfa_V156 :
    let t := ran (start 0x0000 [0xBD, 0x30, 0x00] [] { State.reset with psl := 0x8A })
    t.ras[0] = 0x0003 ∧ t.psl = 0x8A ∧ t.psu = 0x81 ∧ t.pc = 0x3000 := by
  decide +kernel

/-- V158. -/
theorem test_bsxa_V158 :
    let t := ran (start 0x0300 [0xBF, 0x10, 0x00] [] { State.reset with bank0 := ⟨0x00, 0x00, 0xFF⟩ })
    t.ras[0] = 0x0303 ∧ t.psl = 0x0A ∧ t.psu = 0x81 ∧ t.pc = 0x10FF := by
  decide +kernel

/-- V14. -/
theorem test_nop_V14 :
    let t := ran (start 0x5FFF [0xC0] [] State.reset)
    t.psl = 0x0A ∧ t.psu = 0x80 ∧ t.pc = 0x4000 := by
  decide +kernel

/-- V179. -/
theorem test_nop_V179 :
    let t := ran (start 0x0000 [0xC0] [] State.reset)
    t.psl = 0x0A ∧ t.psu = 0x80 ∧ t.pc = 0x0001 := by
  decide +kernel

/-- V38. -/
theorem test_strz_V38 :
    let t := ran (start 0x0000 [0xC1] [] { State.reset with bank0 := ⟨0x01, 0x00, 0x00⟩, r0 := 0x80 })
    t.bank0.r1 = 0x80 ∧ t.psl = 0x8A ∧ t.psu = 0x80 ∧ t.pc = 0x0001 := by
  decide +kernel

/-- V39. -/
theorem test_strr_V39 :
    let t := ran (start 0x0010 [0xC9, 0x7E] [] { State.reset with bank0 := ⟨0x5A, 0x00, 0x00⟩, psl := 0x8A })
    t.peek 0x0010 = 0x5A ∧ t.psl = 0x8A ∧ t.psu = 0x80 ∧ t.pc = 0x0012 := by
  decide +kernel

/-- V43. -/
theorem test_stra_V43 :
    let t := ran (start 0x0000 [0xCD, 0x32, 0x34] [] { State.reset with bank0 := ⟨0xFF, 0x00, 0x00⟩, r0 := 0x3C, params := ⟨.pre, Config.darDefault⟩ })
    t.bank0.r1 = 0x00 ∧ t.peek 0x1234 = 0x3C ∧ t.psl = 0x0A ∧ t.psu = 0x80 ∧ t.pc = 0x0003 := by
  decide +kernel

/-- V45. -/
theorem test_stra_V45 :
    let t := ran (start 0x0000 [0xCF, 0xE0, 0x10] [(0x0010, 0x5F), (0x0011, 0xFF)] { State.reset with bank0 := ⟨0x00, 0x00, 0x01⟩, r0 := 0x66 })
    t.peek 0x4000 = 0x66 ∧ t.psl = 0x0A ∧ t.psu = 0x80 ∧ t.pc = 0x0003 := by
  decide +kernel

/-- V90. -/
theorem test_rrl_V90 :
    let t := ran (start 0x0000 [0xD1] [] { State.reset with bank0 := ⟨0x81, 0x00, 0x00⟩, psl := 0x02 })
    t.bank0.r1 = 0x03 ∧ t.psl = 0x42 ∧ t.psu = 0x80 ∧ t.pc = 0x0001 := by
  decide +kernel

/-- V92. -/
theorem test_rrl_V92 :
    let t := ran (start 0x0000 [0xD1] [] { State.reset with bank0 := ⟨0x81, 0x00, 0x00⟩, psl := 0x0A })
    t.bank0.r1 = 0x02 ∧ t.psl = 0x6B ∧ t.psu = 0x80 ∧ t.pc = 0x0001 := by
  decide +kernel

/-- V174. -/
theorem test_wrte_V174 :
    let t := ran (start 0x0000 [0xD5, 0xFF] [] { State.reset with bank0 := ⟨0x01, 0x00, 0x00⟩ })
    t.psl = 0x0A ∧ t.psu = 0x80 ∧ t.pc = 0x0002 ∧ t.bus.head? = some (.portWrite (.extended 0xFF) 0x01) := by
  decide +kernel

/-- V145. -/
theorem test_bira_V145 :
    let t := ran (start 0x0000 [0xDE, 0x03, 0x00] [] { State.reset with bank0 := ⟨0x00, 0x7F, 0x00⟩, psl := 0x0A })
    t.bank0.r2 = 0x80 ∧ t.psl = 0x0A ∧ t.psu = 0x80 ∧ t.pc = 0x0300 := by
  decide +kernel

/-- V78. -/
theorem test_comz_V78 :
    let t := ran (start 0x0000 [0xE1] [] { State.reset with bank0 := ⟨0x01, 0x00, 0x00⟩, r0 := 0x80, psl := 0x0A })
    t.psl = 0x4A ∧ t.psu = 0x80 ∧ t.pc = 0x0001 := by
  decide +kernel

/-- V79. -/
theorem test_comz_V79 :
    let t := ran (start 0x0000 [0xE1] [] { State.reset with bank0 := ⟨0x01, 0x00, 0x00⟩, r0 := 0x80, psl := 0x08 })
    t.psl = 0x88 ∧ t.psu = 0x80 ∧ t.pc = 0x0001 := by
  decide +kernel

/-- V81. -/
theorem test_comi_V81 :
    let t := ran (start 0x0000 [0xE5, 0xFF] [] { State.reset with bank0 := ⟨0x00, 0x00, 0x00⟩, psl := 0x0A })
    t.psl = 0x8A ∧ t.psu = 0x80 ∧ t.pc = 0x0002 := by
  decide +kernel

/-- V82. -/
theorem test_comi_V82 :
    let t := ran (start 0x0000 [0xE5, 0xFF] [] { State.reset with bank0 := ⟨0x00, 0x00, 0x00⟩, psl := 0x08 })
    t.psl = 0x48 ∧ t.psu = 0x80 ∧ t.pc = 0x0002 := by
  decide +kernel

/-- V83. -/
theorem test_comr_V83 :
    let t := ran (start 0x0100 [0xE9, 0x00] [(0x0102, 0x80)] { State.reset with bank0 := ⟨0x7F, 0x00, 0x00⟩, psl := 0x08 })
    t.psl = 0x48 ∧ t.psu = 0x80 ∧ t.pc = 0x0102 := by
  decide +kernel

/-- V84. -/
theorem test_coma_V84 :
    let t := ran (start 0x0000 [0xED, 0x01, 0x00] [(0x0100, 0x00)] { State.reset with bank0 := ⟨0xFF, 0x00, 0x00⟩ })
    t.psl = 0x4A ∧ t.psu = 0x80 ∧ t.pc = 0x0003 := by
  decide +kernel

/-- V85. -/
theorem test_coma_V85 :
    let t := ran (start 0x0000 [0xEE, 0x61, 0x00] [(0x0101, 0x20)] { State.reset with bank0 := ⟨0x00, 0x01, 0x00⟩, r0 := 0x10 })
    t.psl = 0x8A ∧ t.psu = 0x80 ∧ t.pc = 0x0003 := by
  decide +kernel

/-- V173. -/
theorem test_wrtd_V173 :
    let t := ran (start 0x0000 [0xF0] [] { State.reset with r0 := 0xA5, psl := 0x4A })
    t.psl = 0x4A ∧ t.psu = 0x80 ∧ t.pc = 0x0001 ∧ t.bus.head? = some (.portWrite .data 0xA5) := by
  decide +kernel

/-- V118. -/
theorem test_tmi_V118 :
    let t := ran (start 0x0000 [0xF5, 0x81] [] { State.reset with bank0 := ⟨0x80, 0x00, 0x00⟩ })
    t.psl = 0x8A ∧ t.psu = 0x80 ∧ t.pc = 0x0002 := by
  decide +kernel

/-- V119. -/
theorem test_tmi_V119 :
    let t := ran (start 0x0000 [0xF4, 0x00] [] { State.reset with r0 := 0x00, psl := 0x4A })
    t.psl = 0x0A ∧ t.psu = 0x80 ∧ t.pc = 0x0002 := by
  decide +kernel

/-- V20. -/
theorem test_bdrr_V20 :
    let t := ran (start 0x0000 [0xF9, 0x10] [] { State.reset with bank0 := ⟨0x01, 0x00, 0x00⟩ })
    t.bank0.r1 = 0x00 ∧ t.psl = 0x0A ∧ t.psu = 0x80 ∧ t.pc = 0x0002 := by
  decide +kernel

/-- V147. -/
theorem test_bdrr_V147 :
    let t := ran (start 0x0100 [0xF8, 0x05] [] { State.reset with r0 := 0x00 })
    t.r0 = 0xFF ∧ t.psl = 0x0A ∧ t.psu = 0x80 ∧ t.pc = 0x0107 := by
  decide +kernel

/-- V148. -/
theorem test_bdra_V148 :
    let t := ran (start 0x0000 [0xFF, 0x20, 0x00] [] { State.reset with bank0 := ⟨0x00, 0x00, 0x01⟩ })
    t.bank0.r3 = 0x00 ∧ t.psl = 0x0A ∧ t.psu = 0x80 ∧ t.pc = 0x0003 := by
  decide +kernel

/-- R175's example: register 1 = 0xFE. -/
theorem test_birr_R175 :
    let t := ran (start 0x0000 [0xD9, 0x10] [] { State.reset with bank0 := ⟨0xFE, 0x00, 0x00⟩ })
    t.bank0.r1 = 0xFF ∧ t.psl = 0x0A ∧ t.psu = 0x80 ∧ t.pc = 0x0012 := by
  decide +kernel

/-- R175's example: register 1 = 0xFF. -/
theorem test_birr_wraps_not_taken :
    let t := ran (start 0x0000 [0xD9, 0x10] [] { State.reset with bank0 := ⟨0xFF, 0x00, 0x00⟩ })
    t.bank0.r1 = 0x00 ∧ t.psl = 0x0A ∧ t.psu = 0x80 ∧ t.pc = 0x0002 := by
  decide +kernel

/-- R205's example, and the first step of V180: an illegal opcode is one byte and does nothing. -/
theorem test_illegal_R205 :
    let t := ran (start 0x0000 [0xC5, 0x05, 0x77] [] State.reset)
    t.psl = 0x0A ∧ t.psu = 0x80 ∧ t.pc = 0x0001 ∧ t.bus = [.fetchOp 0x0000] := by
  decide +kernel

/-! ### Reset, interrupt, halted state, order of transactions -/

/-- V193. -/
theorem test_reset_V193 :
    let s : State :=
      { State.reset with
        r0 := 0x12, bank1 := ⟨0x00, 0x34, 0x00⟩, psl := 0xD5, psu := 0x67, halted := true, irq := true
        ras := State.reset.ras.set 3 0x7FFF, events := [[.reset]] }
    ran (start 0x5ABC [] [(0x0100, 0x55)] s) = { State.reset with mem := [(0x0100, 0x55)] } := by
  decide +kernel

/-- V192: entry with SP = 7. -/
theorem test_interrupt_entry_V192 :
    let s : State := { State.reset with psu := 0x87, events := [[.irqChange true]], vectors := [0x08] }
    let t := ran (start 0x0100 [0xC0] [] s)
    t.ras[7] = 0x0100 ∧ t.psu = 0xA0 ∧ t.pc = 0x0008 ∧ t.psl = 0x0A ∧ t.irq = true := by
  decide +kernel

/-- V185, step 2: an indirect vector at the last byte of page 0, with its transactions. -/
theorem test_interrupt_vector_V185 :
    let s : State := { State.reset with irq := true, vectors := [0xFF] }
    let t := ran (start 0x0201 [] [(0x0000, 0x34), (0x1FFF, 0x12)] s)
    t.ras[0] = 0x0201 ∧ t.psu = 0xA1 ∧ t.pc = 0x1234 ∧ t.bus = [.dataRead 0x0000, .dataRead 0x1FFF, .intAck] := by
  decide +kernel

/-- V189, step 2: the interrupt wakes a core halted at the last byte of page 1. -/
theorem test_interrupt_while_halted_V189 :
    let s : State := { State.reset with halted := true, irq := true, vectors := [0x10] }
    let t := ran (start 0x3FFF [0x40] [] s)
    t.ras[0] = 0x2000 ∧ t.psu = 0xA1 ∧ t.pc = 0x0010 ∧ t.halted = false := by
  decide +kernel

/-- R223: with II = 1 a halted core ignores the request. -/
theorem test_halted_ignores_inhibited_request :
    let s : State := start 0x0300 [0x40] [] { State.reset with halted := true, irq := true, psu := 0xA0 }
    ran s = s := by
  decide +kernel

/-- V5: the transactions of an indirect relative branch whose pointer wraps in its page. -/
theorem test_transactions_V5 :
    (ran (start 0x1FFC [0x1B, 0x81] [(0x0000, 0x23), (0x1FFF, 0x41)] State.reset)).bus =
      [.dataRead 0x0000, .dataRead 0x1FFF, .fetchArg 0x1FFD, .fetchOp 0x1FFC] := by
  decide +kernel

/-- The cycles of V5 (3 of R253, and 2 for its indirection), and of a skipped indirect branch (log 16). -/
theorem test_cycles_of_indirect_branches :
    let s := start 0x1FFC [0x1B, 0x81] [(0x0000, 0x23), (0x1FFF, 0x41)] State.reset
    let u := start 0x0000 [0x1D, 0x81, 0x23] [] State.reset
    stepCost defaultCycles s (ran s) = 5 ∧ stepCost defaultCycles u (ran u) = 3 := by
  decide +kernel

/-- R166: a branch that is not taken makes no transaction for its argument bytes. -/
theorem test_not_taken_makes_no_transaction :
    (ran (start 0x0000 [0x1D, 0x81, 0x23] [] State.reset)).bus = [.fetchOp 0x0000] := by
  decide +kernel

/-- The word that withFetchWord places is the one the next step runs, from reset. -/
theorem test_withFetchWord_runs :
    let t := ran (State.reset.withFetchWord 16 0x7F05)
    t.bank0.r1 = 0x7F ∧ t.psl = 0x4A ∧ t.pc = 0x0002 := by
  decide +kernel

/-! ### Witnesses: for every statement that has hypotheses, a concrete state and operands that meet all of them -/

/-- A state in the middle of a run: bank 1 in use, a return address on the stack, bytes in memory, at a HALT opcode. -/
def busy : State :=
  start 0x3FFF [0x40] [(0x0000, 0x12), (0x7FFF, 0x34)]
    { State.reset with r0 := 0xFF, bank1 := ⟨0x01, 0xFE, 0x80⟩, psl := 0xDF, psu := 0xC7, ras := State.reset.ras.set 6 0x2002 }

theorem witness_DecodeReadsBackEveryEncoding :
    (Instr.loda .r3 ⟨true, .autoDec, 0x1FFF⟩).wf = true ∧ (Instr.illegal 0xC7).wf = true ∧
      (Instr.bsfa .minus ⟨true, 0x7FFF⟩).wf = true := by
  decide

theorem witness_StepRunsTheDecodedInstruction_no_request :
    busy.arrived = [] ∧ busy.halted = false ∧ busy.irq = false ∧
      decode [busy.peek busy.pc, busy.peek (nextInPage busy.pc), busy.peek (nextInPage (nextInPage busy.pc))] =
        .instr .halt [0x00, 0x00] := by
  decide +kernel

theorem witness_StepRunsTheDecodedInstruction_inhibited :
    let s : State := start 0x1FFE [0xCF, 0xFF, 0xFF] [] { State.reset with irq := true, psu := 0xA0, events := [[], [.reset]] }
    s.arrived = [] ∧ s.halted = false ∧ psuIi s.psu = true ∧
      decode [s.peek s.pc, s.peek (nextInPage s.pc), s.peek (nextInPage (nextInPage s.pc))] =
        .instr (.stra .r3 ⟨true, .indexed, 0x1FFF⟩) [] := by
  decide +kernel

theorem witness_EveryStepKeepsTheInvariant :
    Inv busy ∧ ∃ t, step busy = .next t ∧ t.halted = true := by
  exact ⟨⟨by decide +kernel, by decide +kernel, by decide +kernel⟩, ran busy, rfl, by decide +kernel⟩

theorem witness_EveryStepKeepsTheInvariant_halted :
    Inv { busy with halted := true } ∧ { busy with halted := true }.halted = true :=
  ⟨⟨by decide +kernel, by decide +kernel, by decide +kernel⟩, rfl⟩

theorem witness_ResetEventResetsTheCore :
    { busy with halted := true, irq := true, events := [[.reset]] }.arrived = [.reset] := by
  decide +kernel

theorem witness_FirstActionAfterResetFetchesAtZero :
    let s : State := { busy with events := [[.reset], []] }
    let t := ran s
    s.arrived = [.reset] ∧ step s = .next t ∧ t.arrived = [] ∧ step t = .next (ran t) :=
  ⟨by decide +kernel, rfl, by decide +kernel, rfl⟩

theorem witness_InputEventsAreAppliedFirst :
    { busy with events := [[.irqChange true, .senseChange false]] }.events =
        (Event.irqChange true :: [.senseChange false]) :: [] ∧
      { busy with events := [[.senseChange false], [.reset]] }.events = (Event.senseChange false :: []) :: [[.reset]] := by
  decide +kernel

theorem witness_HaltedCoreDoesNothing :
    let s : State := { busy with halted := true }
    let u : State := { busy with halted := true, irq := true, psu := 0xE7 }
    (s.arrived = [] ∧ s.halted = true ∧ s.irq = false) ∧ u.arrived = [] ∧ u.halted = true ∧ psuIi u.psu = true := by
  decide +kernel

theorem witness_InterruptEntrySavesAndChanges :
    let s : State := { busy with irq := true, vectors := [0xBF] }
    let u : State := { busy with irq := true, halted := true }
    (s.arrived = [] ∧ s.irq = true ∧ psuIi s.psu = false ∧ s.halted = false) ∧
      u.arrived = [] ∧ u.irq = true ∧ psuIi u.psu = false ∧ u.halted = true := by
  decide +kernel

theorem witness_ReturnUndoesInterruptEntry :
    let s : State := { busy with irq := true, vectors := [0xBF] }
    s.arrived = [] ∧ s.irq = true ∧ psuIi s.psu = false ∧ s.halted = false ∧ step s = .next (ran s) :=
  ⟨by decide +kernel, by decide +kernel, by decide +kernel, by decide +kernel, rfl⟩

theorem witness_ClearingInhibitTakesThePendingInterrupt :
    let s : State := { busy with irq := true, psu := 0xE7, vectors := [0x10] }
    let t := s.nextArg.psuWrite (s.psu &&& ~~~(0x20 : Byte))
    s.irq = true ∧ s.arrived = [] ∧ (0x20 : Byte).getLsbD 5 = true ∧ exec (.cpsu 0x20) s = .next t ∧
      psuIi s.psu = true ∧ psuIi t.psu = false :=
  ⟨by decide +kernel, by decide +kernel, by decide, rfl, by decide +kernel, by decide +kernel⟩

theorem witness_stores_in_a_canonical_memory : busy.mem.wf = true := by decide +kernel

theorem witness_OnlyStoresWriteMemory : storesToMemory (.bsta .always ⟨false, 0x0000⟩) = false := by decide

/-- The store reaches the next opcode, and its last argument byte when the next instruction wraps in the page. -/
theorem witness_StoreIsSeenByTheNextFetch :
    let s : State := start 0x1FFC [0x02, 0x00, 0x0E] [] { State.reset with r0 := 0xC0, bank0 := ⟨0x7F, 0, 0⟩ }
    s.mem.wf = true ∧
      (∃ t, exec (.strr .r0 ⟨false, 0x00⟩) s = .next t ∧ t.fetched = .nop) ∧
      (∃ t, exec (.stra .r1 ⟨false, .none, 0x0000⟩) s = .next t ∧ t.fetched = .loda .r2 ⟨false, .none, 0x007F⟩) :=
  ⟨by decide +kernel, ⟨_, rfl, by decide +kernel⟩, _, rfl, by decide +kernel⟩

theorem witness_AddCarriesAreTrueCarriesButForOneCorner :
    pslC (add8 0x0A 0x80 0x80).psl = true ∧ pslC (add8 0x09 0xFE 0x01).psl = true ∧
      (add8 0x09 0x5A 0xFF).value = 0x5A ∧ pslC (add8 0x09 0x5A 0xFF).psl = false ∧
      pslIdc (add8 0x0A 0x08 0x08).psl = true ∧ pslIdc (add8 0x09 0x03 0x0F).psl = false := by
  decide

theorem witness_SubtractBorrowsAreTrueBorrowsButForOneCorner :
    pslC (sub8 0x0A 0x80 0x81).psl = false ∧ pslC (sub8 0x08 0x01 0x01).psl = false ∧
      (sub8 0x08 0x5A 0xFF).value = 0x5A ∧ pslC (sub8 0x08 0x5A 0xFF).psl = true ∧
      pslIdc (sub8 0x0A 0x10 0x01).psl = false ∧ pslIdc (sub8 0x08 0x03 0x0F).psl = true := by
  decide

theorem witness_DecimalAdditionRecipeIsRight :
    pslWc 0x02 = false ∧ isBcd 0x99 = true ∧ isBcd 0x00 = true ∧ isBcd 0x0A = false ∧ bcdValue 0x99 = 99 := by
  decide

theorem witness_BankSwapHappensExactlyWhenRsChanges :
    writesPsl (.cpsl 0x10) = true ∧
      (∃ t, exec (.cpsl 0x10) busy = .next t ∧ pslRs t.psl ≠ pslRs busy.psl) ∧
      (∃ t, exec (.cpsl 0x0F) busy = .next t ∧ pslRs t.psl = pslRs busy.psl) :=
  ⟨by decide, ⟨_, rfl, by decide +kernel⟩, _, rfl, by decide +kernel⟩

theorem witness_NoOtherInstructionSwapsBanks : writesPsl (.lodi .r1 0x10) = false ∧ writesPsl .lpsu = false := by decide

theorem witness_TogglingTheBankTwiceRestoresRegisters :
    (pslRs State.reset.psl = false ∧
      ∃ t u, exec (.ppsl 0x10) State.reset = .next t ∧ exec (.cpsl 0x10) t = .next u) ∧
    (pslRs busy.psl = true ∧ ∃ t u, exec (.cpsl 0x10) busy = .next t ∧ exec (.ppsl 0x10) t = .next u) :=
  ⟨⟨by decide, _, _, rfl, rfl⟩, by decide +kernel, _, _, rfl, rfl⟩

theorem witness_NinthPushOverwritesTheOldest :
    ([0x0001, 0x0002, 0x0003, 0x0004, 0x0005, 0x0006, 0x7FFF] : List Addr).length = 7 := by decide

theorem witness_HaltStaysOnItsOpcode :
    let s : State := { busy with irq := true, psu := 0xE7 }
    (busy.arrived = [] ∧ busy.halted = false ∧ busy.irq = false ∧ busy.peek busy.pc = 0x40) ∧
    s.arrived = [] ∧ s.halted = false ∧ psuIi s.psu = true ∧ s.peek s.pc = 0x40 := by
  decide +kernel

theorem witness_NopAndIllegalDoNothing :
    (0xB7 : Byte) ∈ ([0x10, 0x11, 0x90, 0x91, 0xB6, 0xB7, 0xC4, 0xC5, 0xC6, 0xC7] : List Byte) := by decide

theorem witness_SequentialInstructionsStayInThePage :
    transfersControl (.loda .r0 ⟨true, .none, 0x1FFF⟩) = false ∧ transfersControl (.illegal 0x10) = false := by decide

theorem witness_OnlyStatusCallsAndReturnsWritePsu : writesPsu .lpsl = false ∧ writesPsu .halt = false := by decide

theorem witness_OnlyThreeInstructionsEnableInterrupts :
    let s : State := { busy with psu := 0xE7, r0 := 0x00 }
    psuIi s.psu = true ∧
      (∃ t, exec .lpsu s = .next t ∧ psuIi t.psu = false) ∧
      (∃ t, exec (.cpsu 0x20) s = .next t ∧ psuIi t.psu = false) ∧
      (∃ t, exec (.rete .minus) { s with psl := 0x80 } = .next t ∧ psuIi t.psu = false) :=
  ⟨by decide +kernel, ⟨_, rfl, by decide +kernel⟩, ⟨_, rfl, by decide +kernel⟩, _, rfl, by decide +kernel⟩

theorem witness_IndirectionCostsTwoCycles :
    let s : State := { busy with irq := true, psu := 0xE7 }
    let asked : State := { busy with irq := true }
    let call := Instr.bsfa .minus ⟨true, 0x0000⟩
    (busy.arrived = [] ∧ busy.halted = false ∧ busy.irq = false) ∧
      (s.arrived = [] ∧ s.halted = false ∧ psuIi s.psu = true) ∧
      ((indirectBit call).isSome = true ∧ passesTest { busy with psl := 0x5F } call = true ∧
        passesTest { busy with psl := 0x9F } call = false) ∧
      asked.arrived = [] ∧ asked.irq = true ∧ psuIi asked.psu = false := by
  decide +kernel

end Sys2Proof.Tests
end

section
/-!
SUPPORT and PROOFS. The statements about the step and its boundary (spec/00_scope.md R8, R9): first what the decoder looks
at, what every instruction does to PPC and to the record of transactions, and the cases of a step; then the statements.
-/

namespace Sys2Proof

/-! ### The decoder -/

/-- An argument byte that the opcode's length does not count is not looked at (R60, R70). -/
theorem decodeBytes_unused_args (op b1 b2 : Byte) :
    (opcodeLength op = 1 ∧ decodeBytes op 0 0 = decodeBytes op b1 b2) ∨
      (opcodeLength op = 2 ∧ decodeBytes op b1 0 = decodeBytes op b1 b2) ∨ opcodeLength op = 3 := by
  unfold opcodeLength decodeBytes
  generalize Reg.ofBits (op.extractLsb' 0 2) = r
  generalize Cond.ofBits (op.extractLsb' 0 2) = v
  generalize (op &&& 0xFC).toNat = group
  dsimp only
  -- the groups of R70, and within some of them the members of R71
  split <;> (try split) <;> simp [Instr.length, encode, encZ, encI, encR, encA, encB]

/-- Three bytes always hold an instruction: that of the opcode and the two bytes after it (R70, R74). -/
theorem decode_three_bytes (op b1 b2 : Byte) : ∃ rest, decode [op, b1, b2] = .instr (decodeBytes op b1 b2) rest := by
  obtain ⟨hlen, hargs⟩ | ⟨hlen, hargs⟩ | hlen := decodeBytes_unused_args op b1 b2
  · exact ⟨[b1, b2], by simp only [decode, hlen, hargs]⟩
  · exact ⟨[b2], by simp only [decode, hlen, hargs]⟩
  · exact ⟨[], by simp [decode, hlen]⟩

end Sys2Proof

namespace Sys2Proof.Machine

/-- The instruction at the program counter is the one that the three bytes there decode to (R61, R62). -/
theorem State.fetched_of_decode {s : State} {i : Instr} {rest : List Byte}
    (h : decode [s.peek s.pc, s.peek (nextInPage s.pc), s.peek (nextInPage (nextInPage s.pc))] = .instr i rest) :
    s.fetched = i := by
  obtain ⟨rest', h'⟩ :=
    decode_three_bytes (s.peek s.pc) (s.peek (nextInPage s.pc)) (s.peek (nextInPage (nextInPage s.pc)))
  have heq := h'.symm.trans h
  exact (Decoded.instr.inj heq).1

/-! ### From s to t the record of transactions only grows -/

/-- PPC is the same, and the record of t holds that of s as its older part (R35, R55). -/
def Continues (s t : State) : Prop := t.ppc = s.ppc ∧ s.bus <:+ t.bus

theorem Continues.refl (s : State) : Continues s s := ⟨rfl, List.suffix_rfl⟩

theorem Continues.trans {s t u : State} (h : Continues s t) (k : Continues t u) : Continues s u :=
  ⟨k.1.trans h.1, h.2.trans k.2⟩

/-- An update that touches neither PPC nor the record. -/
theorem Continues.keep {s t u : State} (h : Continues s t) (hp : u.ppc = t.ppc) (hb : u.bus = t.bus) : Continues s u :=
  ⟨hp.trans h.1, hb ▸ h.2⟩

theorem Continues.record {s t : State} (h : Continues s t) (x : Transaction) : Continues s (t.record x) :=
  ⟨h.1, h.2.trans (List.suffix_cons x _)⟩

/-- What the frame of an operation says of PPC and the count of its reads says of the record. -/
theorem Continues.of_frame_of_reads {regs : List Reg} {mask : Byte} {n : Nat} {s t : State} (hf : Frame regs mask s t)
    (hr : Reads n s t) : Continues s t := by
  obtain ⟨-, -, -, -, -, -, -, -, hppc, -⟩ := hf
  obtain ⟨-, new, hbus, -⟩ := hr
  exact ⟨hppc, new, hbus.symm⟩

/-! ### Argument bytes, addresses and operands -/

theorem continues_nextArg (s : State) : Continues s s.nextArg :=
  .of_frame_of_reads (frame_nextArg [] 0 s) (reads_nextArg s)

theorem continues_relEa (s : State) (a : RelArg) : Continues s (s.relEa a) :=
  .of_frame_of_reads (frame_relEa [] 0 s a) (reads_relEa s a)

theorem continues_zeroEa (s : State) (a : RelArg) : Continues s (s.zeroEa a) :=
  .of_frame_of_reads (frame_zeroEa [] 0 s a) (reads_zeroEa s a)

theorem continues_braEa (s : State) (a : BraArg) : Continues s (s.braEa a) :=
  .of_frame_of_reads (frame_braEa [] 0 s a) (reads_braEa s a)

theorem continues_braIndexedEa (s : State) (a : BraArg) : Continues s (s.braIndexedEa a) :=
  .of_frame_of_reads (frame_braIndexedEa [] 0 s a) (reads_braIndexedEa s a)

theorem continues_absEa (s : State) (r : Reg) (a : AbsArg) : Continues s (s.absEa r a) :=
  .of_frame_of_reads (frame_absEa 0 s r a) (reads_absEa s r a)

theorem continues_relOperand (s : State) (a : RelArg) : Continues s (s.relOperand a).state :=
  (continues_relEa s a).record _

theorem continues_absOperand (s : State) (r : Reg) (a : AbsArg) : Continues s (s.absOperand r a).state :=
  (continues_absEa s r a).record _

theorem Continues.portOperand {s t : State} (h : Continues s t) (p : Port) : Continues s (t.portOperand p).state :=
  (h.keep (u := { t with portIn := t.portIn.tail, inputs := t.inputs + 1 }) rfl rfl).record _

/-! ### Results: PPC and the record stay, but for the store -/

theorem Continues.setReg {s t : State} (h : Continues s t) (d : Reg) (v : Byte) : Continues s (t.setReg d v) :=
  h.keep (by simp) (by simp)

/-- A byte into a register and CC from it: every load and every bitwise operation. -/
theorem Continues.logical {s : State} {o : Operand} (h : Continues s o.state) (d : Reg) (v : Byte) :
    Continues s (o.logical d v) :=
  (h.setReg d v).keep rfl rfl

/-- A result and its status byte: every add, subtract and rotate. -/
theorem Continues.writeAlu {s t : State} (h : Continues s t) (d : Reg) (a : Alu) : Continues s (t.writeAlu d a) :=
  (h.setReg d a.value).keep rfl rfl

theorem Continues.storeAtEa {s t : State} (h : Continues s t) (v : Byte) : Continues s (t.storeAtEa v) :=
  (h.keep (u := { t with mem := t.mem.write t.ea.toNat v }) rfl rfl).record _

/-! ### Transfers -/

theorem Continues.advance {s t : State} (h : Continues s t) (n : BitVec 13) : Continues s (t.advance n) :=
  h.keep rfl rfl

theorem Continues.branchRel {s t : State} (h : Continues s t) (taken : Bool) (a : RelArg) :
    Continues s (t.branchRel taken a) := by
  cases taken
  · exact h.advance _
  · exact (h.trans (continues_relEa t a)).keep rfl rfl

theorem Continues.branchAbs {s t : State} (h : Continues s t) (taken : Bool) (a : BraArg) :
    Continues s (t.branchAbs taken a) := by
  cases taken
  · exact h.advance _
  · exact (h.trans (continues_braEa t a)).keep rfl rfl

theorem continues_callRel (s : State) (taken : Bool) (a : RelArg) : Continues s (s.callRel taken a) := by
  cases taken
  · exact (Continues.refl s).advance _
  · exact (continues_relEa s a).keep rfl rfl

theorem continues_callAbs (s : State) (taken : Bool) (a : BraArg) : Continues s (s.callAbs taken a) := by
  cases taken
  · exact (Continues.refl s).advance _
  · exact (continues_braEa s a).keep rfl rfl

/-! ### Every instruction -/

/-- Every instruction answers a next state, keeps PPC and only adds to the record of transactions (R35, R49, R55). -/
theorem exec_continues (i : Instr) (s : State) : ∃ t, exec i s = .next t ∧ Continues s t := by
  have same := Continues.refl s
  have arg := continues_nextArg s
  cases i with
  -- loads and bitwise operations
  | lodz r | strz r | andz r | eorz r | iorz r => exact ⟨_, rfl, same.logical _ _⟩
  | lodi r imm | andi r imm | eori r imm | iori r imm => exact ⟨_, rfl, arg.logical _ _⟩
  | lodr r a | andr r a | eorr r a | iorr r a => exact ⟨_, rfl, (continues_relOperand s a).logical _ _⟩
  | loda r a | anda r a | eora r a | iora r a => exact ⟨_, rfl, (continues_absOperand s r a).logical _ _⟩
  | strr r a => exact ⟨_, rfl, (continues_relEa s a).storeAtEa _⟩
  | stra r a => exact ⟨_, rfl, (continues_absEa s r a).storeAtEa _⟩
  -- arithmetic and rotates
  | addz r | subz r | rrl r | rrr r => exact ⟨_, rfl, same.writeAlu _ _⟩
  | addi r imm | subi r imm => exact ⟨_, rfl, arg.writeAlu _ _⟩
  | addr r a | subr r a => exact ⟨_, rfl, (continues_relOperand s a).writeAlu _ _⟩
  | adda r a | suba r a => exact ⟨_, rfl, (continues_absOperand s r a).writeAlu _ _⟩
  | comz r => exact ⟨_, rfl, same.keep rfl rfl⟩
  | comi r imm => exact ⟨_, rfl, arg.keep rfl rfl⟩
  | comr r a => exact ⟨_, rfl, (continues_relOperand s a).keep rfl rfl⟩
  | coma r a => exact ⟨_, rfl, (continues_absOperand s r a).keep rfl rfl⟩
  | dar r => exact ⟨_, rfl, same.setReg _ _⟩
  -- status
  | spsu | spsl => exact ⟨_, rfl, same.logical (o := ⟨_, s⟩) _ _⟩
  | lpsu | lpsl => exact ⟨_, rfl, same.keep rfl rfl⟩
  | cpsu mask | cpsl mask | ppsu mask | ppsl mask | tpsu mask | tpsl mask | tmi r mask =>
    exact ⟨_, rfl, arg.keep rfl rfl⟩
  -- branches
  | bctr v a | bcfr v a | brnr r a => exact ⟨_, rfl, same.branchRel _ _⟩
  | bcta v a | bcfa v a | brna r a => exact ⟨_, rfl, same.branchAbs _ _⟩
  | birr r a | bdrr r a => exact ⟨_, rfl, (same.setReg _ _).branchRel _ _⟩
  | bira r a | bdra r a => exact ⟨_, rfl, (same.setReg _ _).branchAbs _ _⟩
  | zbrr a | zbsr a => exact ⟨_, rfl, (continues_zeroEa s a).keep rfl rfl⟩
  | bxa a | bsxa a => exact ⟨_, rfl, (continues_braIndexedEa s a).keep rfl rfl⟩
  -- calls and returns
  | bstr v a | bsfr v a | bsnr r a => exact ⟨_, rfl, continues_callRel _ _ _⟩
  | bsta v a | bsfa v a | bsna r a => exact ⟨_, rfl, continues_callAbs _ _ _⟩
  | retc v | rete v =>
    refine ⟨_, rfl, ?_⟩
    split
    · exact same.keep rfl rfl
    · exact same
  -- ports, HALT and the instructions that do nothing
  | redc r | redd r => exact ⟨_, rfl, (same.portOperand _).logical _ _⟩
  | rede r port => exact ⟨_, rfl, (arg.portOperand _).logical _ _⟩
  | wrtc r | wrtd r => exact ⟨_, rfl, same.record _⟩
  | wrte r port => exact ⟨_, rfl, arg.record _⟩
  | halt => exact ⟨_, rfl, (same.keep (u := { s with halted := true }) rfl rfl).advance _⟩
  | nop | illegal opcode => exact ⟨_, rfl, same⟩

/-! ### The cases of a step (R9) -/

/-- A request that is clear or inhibited is not taken (R214). -/
theorem State.interruptTaken_eq_false {s : State} : s.interruptTaken = false ↔ s.irq = false ∨ psuIi s.psu = true := by
  simp [State.interruptTaken, State.inhibited, or_iff_not_imp_left]

/-- A step before which a Reset has arrived ends with its boundary. -/
theorem step_of_resetArrived {s : State} (h : s.resetArrived = true) : step s = .next s.boundary := by
  simp [step, h]

/-- A boundary with no event changes nothing that the choice of R9 looks at. -/
theorem State.boundary_interruptTaken {s : State} (he : s.arrived = []) :
    s.boundary.interruptTaken = s.interruptTaken := by
  rw [State.boundary_of_no_event he]; rfl

theorem State.boundary_halted {s : State} (he : s.arrived = []) : s.boundary.halted = s.halted := by
  rw [State.boundary_of_no_event he]

/-- A step of a running core with no event and no interrupt to be taken fetches and executes one instruction. -/
theorem step_of_running {s : State} (he : s.arrived = []) (hh : s.halted = false)
    (hi : s.irq = false ∨ psuIi s.psu = true) : step s = exec s.boundary.fetched s.boundary.afterOpcode := by
  simp [step, State.resetArrived_of_no_event he, State.boundary_interruptTaken he, State.boundary_halted he,
    State.interruptTaken_eq_false.mpr hi, hh]

/-- A step of a halted core with no event and no interrupt to be taken is its boundary. -/
theorem step_of_idle {s : State} (he : s.arrived = []) (hh : s.halted = true)
    (hi : s.irq = false ∨ psuIi s.psu = true) : step s = .next s.boundary := by
  simp [step, State.resetArrived_of_no_event he, State.boundary_interruptTaken he, State.boundary_halted he,
    State.interruptTaken_eq_false.mpr hi, hh]

/-- The first transaction of a running core's step is the fetch of the opcode at the program counter, and PPC keeps its
address (R61). -/
theorem fetch_of_running {s t : State} (he : s.arrived = []) (hh : s.halted = false)
    (hi : s.irq = false ∨ psuIi s.psu = true) (ht : step s = .next t) :
    ∃ later, t.bus = later ++ .fetchOp s.pc :: s.bus ∧ t.ppc = s.pc := by
  obtain ⟨t', hexec, hcont⟩ := exec_continues s.boundary.fetched s.boundary.afterOpcode
  rw [step_of_running he hh hi, hexec] at ht
  obtain rfl := Host.Outcome.next.inj ht
  rw [State.boundary_of_no_event he] at hcont
  obtain ⟨hppc, later, hbus⟩ := hcont
  exact ⟨later, hbus.symm, hppc⟩

/-- A step depends on its boundary and on whether a Reset has arrived, and on nothing else (R9). -/
theorem step_eq_of_boundary_eq {s t : State} (hb : s.boundary = t.boundary) (hr : s.resetArrived = t.resetArrived) :
    step s = step t := by
  simp only [step, hb, hr]

/-! ### Events are applied in arrival order (R8) -/

/-- The first of the arrived events is applied, then the boundary goes on with the rest. -/
theorem State.boundary_of_events_cons {s : State} {e : Event} {rest : List Event} {later : List (List Event)}
    (h : s.events = (e :: rest) :: later) : s.boundary = ({ s with events := rest :: later }.applyEvent e).boundary := by
  simp only [State.boundary, State.arrived, h]
  cases e <;> rfl

/-- An input event is applied before everything else the step does (R9, R222). -/
theorem step_of_events_cons {s : State} {e : Event} {rest : List Event} {later : List (List Event)} (hne : e ≠ .reset)
    (h : s.events = (e :: rest) :: later) : step s = step ({ s with events := rest :: later }.applyEvent e) := by
  refine step_eq_of_boundary_eq (State.boundary_of_events_cons h) ?_
  cases e with
  | reset => exact absurd rfl hne
  | irqChange level | senseChange level => simp [State.resetArrived, State.arrived, State.applyEvent, h]

/-- The sense bit is bit 7 of PSU (R24). -/
theorem withSense_eq (u : Byte) (level : Bool) : withSense u level = if level then u ||| 0x80 else u &&& 0x7F := by
  cases level <;> rfl

@[simp] theorem State.pc_resetCore (s : State) : s.resetCore.pc = 0 :=
  (by decide : mkAddr 0 0 = 0)

/-- A lone Reset takes the core to its reset values (R240). -/
theorem step_of_reset {s : State} (h : s.arrived = [.reset]) :
    step s = .next { s with events := s.events.tail }.resetCore := by
  rw [step_of_resetArrived (by simp [State.resetArrived, h]), State.boundary, h]
  rfl

end Sys2Proof.Machine

open Sys2Proof Sys2Proof.Machine

/-! ### The statements -/

/-- Settles O4: the step executes `fetched`, which is what the decoder reads from the three bytes. -/
theorem stepRunsTheDecodedInstruction : Obligations.StepRunsTheDecodedInstruction := by
  intro s i rest hevents hrunning hrequest hdecode
  have hfetched : ({ s with events := s.events.tail } : State).fetched = i := State.fetched_of_decode hdecode
  rw [step_of_running hevents hrunning hrequest, State.boundary_of_no_event hevents, hfetched]
  rfl

/-- Settles O10: the step ends with a boundary whose one event is the reset. -/
theorem resetEventResetsTheCore : Obligations.ResetEventResetsTheCore :=
  fun _ h => step_of_reset h

/-- Settles O12, by the rule for the first arrived event; what it writes is the event's own rule. -/
theorem inputEventsAreAppliedFirst : Obligations.InputEventsAreAppliedFirst := by
  intro s level rest later
  constructor
  · exact fun h => step_of_events_cons (by simp) h
  · intro h
    rw [← withSense_eq]
    exact step_of_events_cons (by simp) h

/-- Settles O13: the step is its boundary, and a boundary with no event only consumes the event slot. -/
theorem haltedCoreDoesNothing : Obligations.HaltedCoreDoesNothing :=
  fun s hevents hhalted hrequest => by
    rw [step_of_idle hevents hhalted hrequest, State.boundary_of_no_event hevents]

/-- Settles O11: the reset state is running with no request and program counter 0, so its next step fetches there first;
the instruction fetched keeps PPC and only adds to the record. -/
theorem firstActionAfterResetFetchesAtZero : Obligations.FirstActionAfterResetFetchesAtZero := by
  intro s t u hreset ht hevents hu
  rw [step_of_reset hreset] at ht
  obtain rfl := Host.Outcome.next.inj ht
  have hfetch := fetch_of_running hevents rfl (.inl rfl) hu
  rwa [State.pc_resetCore] at hfetch

end

section
/-!
SUPPORT and PROOFS. The statements about the state (spec/10_state.md): what every instruction keeps and the invariant of
the step; that the scratch values are never read; the condition-code table; the two banks; the return-address stack.
-/

namespace Sys2Proof

/-- HALT has one opcode (R70, R71). -/
theorem decodeBytes_eq_halt {op b1 b2 : Byte} (h : decodeBytes op b1 b2 = .halt) : op = 0x40 := by
  have member : ∀ x : Byte, (x &&& 0xFC).toNat = 0x40 → Reg.ofBits (x.extractLsb' 0 2) = .r0 → x = 0x40 := by
    decide +kernel
  unfold decodeBytes at h
  dsimp only at h
  split at h
  -- the group 0x40, whose member 0 is HALT
  case h_17 hgroup =>
    split at h
    case h_1 hlow => exact member op hgroup hlow
    all_goals cases h
  -- no other group has HALT in it
  all_goals (try split at h) <;> cases h

end Sys2Proof

namespace Sys2Proof.Machine

/-! ### What an operation keeps -/

/-- The run state, RS and the inactive bank are the same, and a canonical memory stays canonical. -/
structure KeepsBanks (s t : State) : Prop where
  halted : t.halted = s.halted
  rs : pslRs t.psl = pslRs s.psl
  inactive : t.inactiveBank = s.inactiveBank
  memory : s.mem.wf = true → t.mem.wf = true

/-- PSU and the stack entries are the same as well. -/
structure Keeps (s t : State) : Prop extends KeepsBanks s t where
  stack : StackKept s t

/-- The page is the same as well, and the offset has moved over n bytes (R16). -/
structure Steps (n : BitVec 13) (s t : State) : Prop extends Keeps s t where
  page : t.page = s.page
  offset : t.offset = s.offset + n

theorem KeepsBanks.trans {s t u : State} (h : KeepsBanks s t) (k : KeepsBanks t u) : KeepsBanks s u :=
  ⟨k.halted.trans h.halted, k.rs.trans h.rs, k.inactive.trans h.inactive, fun hw => k.memory (h.memory hw)⟩

theorem Keeps.trans {s t u : State} (h : Keeps s t) (k : Keeps t u) : Keeps s u :=
  ⟨h.toKeepsBanks.trans k.toKeepsBanks, k.stack.1.trans h.stack.1, k.stack.2.trans h.stack.2⟩

theorem Keeps.refl (s : State) : Keeps s s := ⟨⟨rfl, rfl, rfl, id⟩, rfl, rfl⟩

/-- An update that moves neither part of the program counter. -/
theorem Steps.of_keeps {s t : State} (h : Keeps s t) (hp : t.page = s.page) (ho : t.offset = s.offset) :
    Steps 0 s t :=
  ⟨h, hp, ho.trans (BitVec.add_zero _).symm⟩

theorem Steps.refl (s : State) : Steps 0 s s := .of_keeps (Keeps.refl s) rfl rfl

theorem Steps.trans {n m : BitVec 13} {s t u : State} (h : Steps n s t) (k : Steps m t u) : Steps (n + m) s u :=
  ⟨h.toKeeps.trans k.toKeeps, k.page.trans h.page, by rw [k.offset, h.offset, BitVec.add_assoc]⟩

/-- What follows the operand moves the program counter no further. -/
theorem Steps.thenStay {n : BitVec 13} {s t u : State} (h : Steps n s t) (k : Steps 0 t u) : Steps n s u := by
  simpa using h.trans k

/-- A frame whose mask leaves out RS keeps the banks, PSU and the stack; its memory reads alike, which says nothing of
the form of the memory. -/
theorem Keeps.of_frame {regs : List Reg} {mask : Byte} {s t : State} (h : Frame regs mask s t)
    (hrs : mask.getLsbD 4 = false) (hmem : t.mem = s.mem) : Keeps s t := by
  obtain ⟨⟨-, hinactive⟩, hpsl, hstack, -, -, hhalted, -⟩ := h
  have hbit := congrArg (·.getLsbD 4) hpsl
  have hkept : pslRs t.psl = pslRs s.psl := by simpa [pslRs, hrs, -BitVec.getLsbD_eq_getElem] using hbit
  exact ⟨⟨hhalted, hkept, hinactive, hmem ▸ id⟩, hstack⟩

/-! ### Argument bytes, addresses and operands -/

theorem steps_nextArg (s : State) : Steps 1 s s.nextArg := ⟨.of_frame (frame_nextArg [] 0 s) rfl rfl, rfl, rfl⟩

theorem steps_relEa (s : State) (a : RelArg) : Steps 1 s (s.relEa a) :=
  ⟨.of_frame (frame_relEa [] 0 s a) rfl (by simp), by simp, by rw [State.relEa_eq]⟩

theorem steps_absEa (s : State) (r : Reg) (a : AbsArg) : Steps 2 s (s.absEa r a) :=
  ⟨.of_frame (frame_absEa 0 s r a) rfl (by simp), by simp, by simp⟩

theorem steps_record (s : State) (x : Transaction) : Steps 0 s (s.record x) :=
  .of_keeps (.of_frame (Frame.refl [] 0 s) rfl rfl) rfl rfl

theorem steps_relOperand (s : State) (a : RelArg) : Steps 1 s (s.relOperand a).state :=
  (steps_relEa s a).thenStay (steps_record _ _)

theorem steps_absOperand (s : State) (r : Reg) (a : AbsArg) : Steps 2 s (s.absOperand r a).state :=
  (steps_absEa s r a).thenStay (steps_record _ _)

theorem steps_portOperand (s : State) (p : Port) : Steps 0 s (s.portOperand p).state :=
  .of_keeps ⟨⟨rfl, rfl, rfl, id⟩, rfl, rfl⟩ rfl rfl

/-! ### Results -/

theorem steps_setReg (s : State) (d : Reg) (v : Byte) : Steps 0 s (s.setReg d v) :=
  .of_keeps (.of_frame (frame_setReg (regs := [d]) 0 s v (by simp)) rfl (by simp)) (by simp) (by simp)

theorem steps_setPsl (s : State) {p : Byte} (h : pslRs p = pslRs s.psl) : Steps 0 s (s.setPsl p) :=
  .of_keeps ⟨⟨rfl, h, State.inactiveBank_setPsl_of_rs s h, id⟩, rfl, rfl⟩ rfl rfl

theorem steps_setCc (s : State) (c : BitVec 2) : Steps 0 s (s.setCc c) := steps_setPsl s (pslRs_withCc _ _)

/-- A byte into a register and CC from it: every load and every bitwise operation. -/
theorem steps_logical (o : Operand) (d : Reg) (v : Byte) : Steps 0 o.state (o.logical d v) :=
  (steps_setReg _ _ _).thenStay (steps_setCc _ _)

/-- A result and its status byte, which keeps RS: every add, subtract and rotate. -/
theorem steps_writeAlu (s : State) (d : Reg) {a : Alu} (h : pslRs a.psl = pslRs s.psl) : Steps 0 s (s.writeAlu d a) :=
  (steps_setReg s d a.value).thenStay (steps_setPsl _ (by simpa using h))

theorem steps_storeAtEa (s : State) (v : Byte) : Steps 0 s (s.storeAtEa v) :=
  .of_keeps ⟨⟨rfl, rfl, rfl, State.memWrite_wf s s.ea v⟩, rfl, rfl⟩ rfl rfl

/-! ### Branches, calls and returns -/

theorem keeps_advance (s : State) (n : BitVec 13) : Keeps s (s.advance n) :=
  .of_frame (Frame.refl [] 0 s) rfl rfl

theorem keeps_jump (s : State) : Keeps s s.jump := .of_frame (Frame.refl [] 0 s) rfl rfl

theorem keeps_zeroEa (s : State) (a : RelArg) : Keeps s (s.zeroEa a) := .of_frame (frame_zeroEa [] 0 s a) rfl (by simp)

theorem keeps_braEa (s : State) (a : BraArg) : Keeps s (s.braEa a) := .of_frame (frame_braEa [] 0 s a) rfl (by simp)

theorem keeps_braIndexedEa (s : State) (a : BraArg) : Keeps s (s.braIndexedEa a) :=
  .of_frame (frame_braIndexedEa [] 0 s a) rfl (by simp)

theorem keeps_branchRel (s : State) (taken : Bool) (a : RelArg) : Keeps s (s.branchRel taken a) := by
  cases taken
  · exact keeps_advance s 1
  · exact (steps_relEa s a).toKeeps.trans (keeps_jump _)

theorem keeps_branchAbs (s : State) (taken : Bool) (a : BraArg) : Keeps s (s.branchAbs taken a) := by
  cases taken
  · exact keeps_advance s 2
  · exact (keeps_braEa s a).trans (keeps_jump _)

/-- PSU changes in SP alone; nothing is said of the stack entries (R28). -/
structure KeepsButSp (s t : State) : Prop extends KeepsBanks s t where
  psu : t.psu = withSp s.psu t.sp

theorem Keeps.butSp {s t : State} (h : Keeps s t) : KeepsButSp s t :=
  ⟨h.toKeepsBanks, by rw [State.sp, h.stack.1, withSp_psuSp]⟩

/-- A call from the state e in which its address has been formed. -/
theorem Keeps.callEa {s e : State} (h : Keeps s e) : KeepsButSp s e.callEa :=
  ⟨h.toKeepsBanks.trans ⟨rfl, rfl, rfl, id⟩, by simp [State.callEa, State.sp, h.stack.1]⟩

theorem keepsButSp_callRel (s : State) (taken : Bool) (a : RelArg) : KeepsButSp s (s.callRel taken a) := by
  cases taken
  · exact (keeps_advance s 1).butSp
  · exact (steps_relEa s a).toKeeps.callEa

theorem keepsButSp_callAbs (s : State) (taken : Bool) (a : BraArg) : KeepsButSp s (s.callAbs taken a) := by
  cases taken
  · exact (keeps_advance s 2).butSp
  · exact (keeps_braEa s a).callEa

theorem keepsButSp_popJump (s : State) : KeepsButSp s s.popJump :=
  ⟨⟨rfl, rfl, rfl, id⟩, by simp [State.sp]⟩

/-! ### What every instruction keeps -/

/-- What lets an instruction enable interrupts (R26, R213): it loads bit 5 of PSU as 0, or clears it, or returns. -/
def Enables (s : State) (i : Instr) : Prop :=
  (i = .lpsu ∧ s.r0.getLsbD 5 = false) ∨ (∃ m, i = .cpsu m ∧ m.getLsbD 5 = true) ∨
    ∃ v, i = .rete v ∧ condTrue v s.cc = true

/-- What the instruction i keeps when it leads from s to t, by the kinds of Sys2Proof/Safety.lean. -/
structure ExecFrame (i : Instr) (s t : State) : Prop where
  running : i ≠ .halt → t.halted = s.halted
  banks : writesPsl i = false → pslRs t.psl = pslRs s.psl ∧ t.inactiveBank = s.inactiveBank
  stack : writesPsu i = false → StackKept s t
  place : transfersControl i = false → t.page = s.page ∧ t.offset = s.offset + BitVec.ofNat 13 (i.length - 1)
  memory : s.mem.wf = true → t.mem.wf = true
  unimplemented : s.psu &&& 0x18 = 0 → t.psu &&& 0x18 = 0
  inhibit : psuIi s.psu = true → psuIi t.psu = false → Enables s i

/-- An instruction that writes neither PSU nor RS. -/
theorem ExecFrame.of_keeps {i : Instr} {s t : State} (h : Keeps s t)
    (hp : transfersControl i = false → t.page = s.page ∧ t.offset = s.offset + BitVec.ofNat 13 (i.length - 1)) :
    ExecFrame i s t where
  running _ := h.halted
  banks _ := ⟨h.rs, h.inactive⟩
  stack _ := h.stack
  place := hp
  memory := h.memory
  unimplemented hu := by rw [h.stack.1, hu]
  inhibit hs ht := by simp [h.stack.1, hs] at ht

theorem ExecFrame.of_steps {i : Instr} {s t : State} (h : Steps (BitVec.ofNat 13 (i.length - 1)) s t) :
    ExecFrame i s t :=
  .of_keeps h.toKeeps fun _ => ⟨h.page, h.offset⟩

theorem ExecFrame.of_branch {i : Instr} {s t : State} (h : Keeps s t) (hi : transfersControl i = true) :
    ExecFrame i s t :=
  .of_keeps h fun hp => by simp [hi] at hp

/-- A call or a return that writes SP alone of PSU. -/
theorem ExecFrame.of_butSp {i : Instr} {s t : State} (h : KeepsButSp s t) (hi : transfersControl i = true)
    (hp : writesPsu i = true) : ExecFrame i s t where
  running _ := h.halted
  banks _ := ⟨h.rs, h.inactive⟩
  stack hp' := by simp [hp] at hp'
  place hp := by simp [hi] at hp
  memory := h.memory
  unimplemented hu := by rw [h.psu, withSp_unimplemented, hu]
  inhibit hs ht := by
    rw [h.psu, psuIi_withSp, hs] at ht
    contradiction

/-- A whole write of PSL after the argument bytes. -/
theorem ExecFrame.of_setPsl {i : Instr} {n : BitVec 13} {s t : State} (h : Steps n s t) (p : Byte)
    (hi : writesPsl i = true) (hn : n = BitVec.ofNat 13 (i.length - 1)) : ExecFrame i s (t.setPsl p) where
  running _ := h.halted
  banks hp := by simp [hi] at hp
  stack _ := h.stack
  place _ := ⟨h.page, hn ▸ h.offset⟩
  memory := h.memory
  unimplemented hu := by rw [State.setPsl_psu, h.stack.1, hu]
  inhibit hs ht := by simp [h.stack.1, hs] at ht

/-- A whole write of PSU after the argument bytes; whether it clears II is the instruction's own. -/
theorem ExecFrame.of_psuWrite {i : Instr} {n : BitVec 13} {s t : State} (h : Steps n s t) {v : Byte}
    (hi : writesPsu i = true) (hn : n = BitVec.ofNat 13 (i.length - 1))
    (hv : psuIi s.psu = true → psuIi (v &&& psuMask) = false → Enables s i) : ExecFrame i s (t.psuWrite v) where
  running _ := h.halted
  banks _ := ⟨h.rs, h.inactive⟩
  stack hp := by simp [hi] at hp
  place _ := ⟨h.page, hn ▸ h.offset⟩
  memory := h.memory
  unimplemented _ := psuMask_unimplemented v
  inhibit := hv

theorem psuIi_and_psuMask (v : Byte) : psuIi (v &&& psuMask) = v.getLsbD 5 := by
  revert v; decide +kernel

/-- HALT writes the run state and rewinds the offset. -/
theorem execFrame_halt (s : State) : ExecFrame .halt s ({ s with halted := true }.advance (-1)) := by
  have h : Keeps { s with halted := true } ({ s with halted := true }.advance (-1)) := keeps_advance _ _
  exact
    { running := fun hne => absurd rfl hne
      banks := fun _ => ⟨h.rs, h.inactive⟩
      stack := fun _ => h.stack
      place := fun hp => by contradiction
      memory := h.memory
      unimplemented := fun hu => by rw [h.stack.1, hu]
      inhibit := fun hs ht => by simp [hs] at ht }

/-- RETE clears II only when it is taken (R188, R220). -/
theorem execFrame_rete (v : Cond) (s : State) :
    ExecFrame (.rete v) s (if condTrue v s.cc then s.returnFromInterrupt else s) := by
  by_cases htaken : condTrue v s.cc = true
  · simp only [htaken, if_true]
    exact
      { running := fun _ => rfl
        banks := fun _ => ⟨rfl, rfl⟩
        stack := fun h => by contradiction
        place := fun h => by contradiction
        memory := id
        unimplemented := fun hu => by rw [State.returnFromInterrupt_eq, withIi_unimplemented, withSp_unimplemented, hu]
        inhibit := fun _ _ => .inr (.inr ⟨v, rfl, htaken⟩) }
  · simp only [htaken]
    exact .of_butSp (Keeps.refl s).butSp rfl rfl

/-- Every instruction answers a next state, and keeps what its kind keeps. -/
theorem exec_frame (i : Instr) (s : State) : ∃ t, exec i s = .next t ∧ ExecFrame i s t := by
  have same := Steps.refl s
  have arg := steps_nextArg s
  cases i with
  -- loads and bitwise operations
  | lodz r | strz r | andz r | eorz r | iorz r => exact ⟨_, rfl, .of_steps (steps_logical ⟨_, s⟩ _ _)⟩
  | lodi r imm | andi r imm | eori r imm | iori r imm =>
    exact ⟨_, rfl, .of_steps (arg.thenStay (steps_logical ⟨_, s.nextArg⟩ _ _))⟩
  | lodr r a | andr r a | eorr r a | iorr r a =>
    exact ⟨_, rfl, .of_steps ((steps_relOperand s a).thenStay (steps_logical _ _ _))⟩
  | loda r a | anda r a | eora r a | iora r a =>
    exact ⟨_, rfl, .of_steps ((steps_absOperand s r a).thenStay (steps_logical _ _ _))⟩
  | strr r a => exact ⟨_, rfl, .of_steps ((steps_relEa s a).thenStay (steps_storeAtEa _ _))⟩
  | stra r a => exact ⟨_, rfl, .of_steps ((steps_absEa s r a).thenStay (steps_storeAtEa _ _))⟩
  -- arithmetic and rotates
  | addz r | subz r => exact ⟨_, rfl, .of_steps (steps_writeAlu s _ (pslRs_arithPsl _ _ _ _ _))⟩
  | addi r imm | subi r imm => exact ⟨_, rfl, .of_steps (arg.thenStay (steps_writeAlu _ _ (pslRs_arithPsl _ _ _ _ _)))⟩
  | addr r a | subr r a =>
    exact ⟨_, rfl, .of_steps ((steps_relOperand s a).thenStay (steps_writeAlu _ _ (pslRs_arithPsl _ _ _ _ _)))⟩
  | adda r a | suba r a =>
    exact ⟨_, rfl, .of_steps ((steps_absOperand s r a).thenStay (steps_writeAlu _ _ (pslRs_arithPsl _ _ _ _ _)))⟩
  | comz r => exact ⟨_, rfl, .of_steps (steps_setCc s _)⟩
  | comi r imm => exact ⟨_, rfl, .of_steps (arg.thenStay (steps_setCc _ _))⟩
  | comr r a => exact ⟨_, rfl, .of_steps ((steps_relOperand s a).thenStay (steps_setCc _ _))⟩
  | coma r a => exact ⟨_, rfl, .of_steps ((steps_absOperand s r a).thenStay (steps_setCc _ _))⟩
  | dar r => exact ⟨_, rfl, .of_steps (steps_setReg s _ _)⟩
  | rrl r | rrr r => exact ⟨_, rfl, .of_steps (steps_writeAlu s _ (pslRs_rotatePsl _ _ _))⟩
  -- status
  | spsu | spsl => exact ⟨_, rfl, .of_steps (steps_logical ⟨_, s⟩ _ _)⟩
  | tpsu mask | tpsl mask | tmi r mask => exact ⟨_, rfl, .of_steps (arg.thenStay (steps_setCc _ _))⟩
  | lpsl => exact ⟨_, rfl, .of_setPsl same _ rfl rfl⟩
  | cpsl mask | ppsl mask => exact ⟨_, rfl, .of_setPsl arg _ rfl rfl⟩
  | lpsu =>
    refine ⟨_, rfl, .of_psuWrite same rfl rfl fun _ ht => .inl ⟨rfl, ?_⟩⟩
    rwa [psuIi_and_psuMask] at ht
  | cpsu mask =>
    refine ⟨_, rfl, .of_psuWrite arg rfl rfl fun hs ht => .inr (.inl ⟨mask, rfl, ?_⟩)⟩
    have hread : s.psuRead.getLsbD 5 = true := (psuIi_and_psuMask s.psu).trans hs
    rw [psuIi_and_psuMask, BitVec.getLsbD_and, hread] at ht
    simpa using ht
  | ppsu mask =>
    refine ⟨_, rfl, .of_psuWrite arg rfl rfl fun hs ht => ?_⟩
    have hread : s.psuRead.getLsbD 5 = true := (psuIi_and_psuMask s.psu).trans hs
    rw [psuIi_and_psuMask, BitVec.getLsbD_or, hread, Bool.true_or] at ht
    contradiction
  -- branches
  | bctr v a | bcfr v a | brnr r a => exact ⟨_, rfl, .of_branch (keeps_branchRel _ _ _) rfl⟩
  | bcta v a | bcfa v a | brna r a => exact ⟨_, rfl, .of_branch (keeps_branchAbs _ _ _) rfl⟩
  | birr r a | bdrr r a => exact ⟨_, rfl, .of_branch ((steps_setReg s _ _).toKeeps.trans (keeps_branchRel _ _ _)) rfl⟩
  | bira r a | bdra r a => exact ⟨_, rfl, .of_branch ((steps_setReg s _ _).toKeeps.trans (keeps_branchAbs _ _ _)) rfl⟩
  | zbrr a => exact ⟨_, rfl, .of_branch ((keeps_zeroEa s a).trans (keeps_jump _)) rfl⟩
  | bxa a => exact ⟨_, rfl, .of_branch ((keeps_braIndexedEa s a).trans (keeps_jump _)) rfl⟩
  -- calls and returns
  | bstr v a | bsfr v a | bsnr r a => exact ⟨_, rfl, .of_butSp (keepsButSp_callRel _ _ _) rfl rfl⟩
  | bsta v a | bsfa v a | bsna r a => exact ⟨_, rfl, .of_butSp (keepsButSp_callAbs _ _ _) rfl rfl⟩
  | zbsr a => exact ⟨_, rfl, .of_butSp (keeps_zeroEa s a).callEa rfl rfl⟩
  | bsxa a => exact ⟨_, rfl, .of_butSp (keeps_braIndexedEa s a).callEa rfl rfl⟩
  | retc v =>
    refine ⟨_, rfl, ?_⟩
    split
    · exact .of_butSp (keepsButSp_popJump s) rfl rfl
    · exact .of_butSp same.toKeeps.butSp rfl rfl
  | rete v => exact ⟨_, rfl, execFrame_rete v s⟩
  -- ports, HALT and the instructions that do nothing
  | redc r | redd r => exact ⟨_, rfl, .of_steps ((steps_portOperand s _).thenStay (steps_logical _ _ _))⟩
  | rede r port =>
    exact ⟨_, rfl, .of_steps ((arg.thenStay (steps_portOperand _ _)).thenStay (steps_logical _ _ _))⟩
  | wrtc r | wrtd r => exact ⟨_, rfl, .of_steps (steps_record s _)⟩
  | wrte r port => exact ⟨_, rfl, .of_steps (arg.thenStay (steps_record _ _))⟩
  | halt => exact ⟨_, rfl, execFrame_halt s⟩
  | nop | illegal opcode => exact ⟨_, rfl, .of_steps same⟩

/-! ### The invariant -/

/-- Every event keeps the invariant: a Reset leaves a running core, an input event its program counter. -/
theorem Inv.applyEvent {s : State} (h : Inv s) (e : Event) : Inv (s.applyEvent e) := by
  cases e with
  | reset => exact ⟨h.memory, (by decide : (0x80 : Byte) &&& 0x18 = 0), nofun⟩
  | irqChange level => exact ⟨h.memory, h.unimplemented, h.haltAddress⟩
  | senseChange level =>
    exact ⟨h.memory, (withSense_unimplemented s.psu level).trans h.unimplemented, h.haltAddress⟩

theorem Inv.foldl_applyEvent {s : State} (h : Inv s) (es : List Event) : Inv (es.foldl State.applyEvent s) := by
  induction es generalizing s with
  | nil => exact h
  | cons e es ih => exact ih (h.applyEvent e)

theorem Inv.boundary {s : State} (h : Inv s) : Inv s.boundary :=
  Inv.foldl_applyEvent (s := { s with events := s.events.tail }) ⟨h.memory, h.unimplemented, h.haltAddress⟩ _

/-- The interrupt sequence leaves a running core (R215). -/
theorem Inv.takeInterrupt {s : State} (h : Inv s) : Inv s.takeInterrupt := by
  rw [State.takeInterrupt_eq]
  exact ⟨h.memory, by simp only [withIi_unimplemented, withSp_unimplemented, h.unimplemented], nofun⟩

/-- The instruction at the program counter is HALT exactly when the byte there is its opcode. -/
theorem State.fetched_eq_halt {s : State} : s.fetched = .halt ↔ s.peek s.pc = 0x40 := by
  refine ⟨decodeBytes_eq_halt, fun h => ?_⟩
  rw [State.fetched, h]
  rfl

/-- What HALT leaves: the offset is back where its opcode was fetched. -/
theorem exec_halt_afterOpcode (s : State) :
    exec .halt s.afterOpcode = .next { s.afterOpcode with halted := true, offset := s.offset } := by
  have h : s.offset + 1 + -1 = s.offset := by rw [BitVec.add_assoc]; exact BitVec.add_zero _
  simp only [exec, execHalt, State.advance, State.afterOpcode_offset, h]

/-- A fetched instruction executed by a running core keeps the invariant. -/
theorem Inv.exec_fetched {s t : State} (h : Inv s) (hrun : s.halted = false)
    (ht : exec s.fetched s.afterOpcode = .next t) : Inv t := by
  obtain ⟨t', hexec, hf⟩ := exec_frame s.fetched s.afterOpcode
  rw [ht] at hexec
  obtain rfl := Host.Outcome.next.inj hexec
  refine ⟨hf.memory h.memory, hf.unimplemented h.unimplemented, fun hhalted => ?_⟩
  by_cases hhalt : s.fetched = .halt
  · rw [hhalt, exec_halt_afterOpcode] at ht
    obtain rfl := Host.Outcome.next.inj ht
    exact State.fetched_eq_halt.mp hhalt
  · rw [hf.running hhalt, State.afterOpcode_halted, hrun] at hhalted
    contradiction

/-- The cases of a step (R9): its boundary, the interrupt sequence, or the instruction that a running core fetches. -/
theorem step_cases {s t : State} (h : step s = .next t) :
    t = s.boundary ∨ t = s.boundary.takeInterrupt ∨
      s.boundary.halted = false ∧ exec s.boundary.fetched s.boundary.afterOpcode = .next t := by
  unfold step at h
  dsimp only at h
  split at h
  · exact .inl (Host.Outcome.next.inj h).symm
  · split at h
    · exact .inr (.inl (Host.Outcome.next.inj h).symm)
    · split at h
      · exact .inl (Host.Outcome.next.inj h).symm
      · next hrun => exact .inr (.inr ⟨by simpa using hrun, h⟩)

/-! ### Two states that differ in scratch values alone -/

theorem sameButScratch_withScratch (s : State) (ir : Byte) (ea : Addr) (rsel : BitVec 2) (ppc : Addr) :
    SameButScratch s (s.withScratch ir ea rsel ppc) := rfl

/-- The other state is the first with scratch values of its own. -/
theorem SameButScratch.eq_withScratch {s u : State} (h : SameButScratch s u) :
    u = s.withScratch u.ir u.ea u.rsel u.ppc := by
  have erased : u.withScratch 0 0 0 0 = s.withScratch 0 0 0 0 := h.symm
  calc u = (u.withScratch 0 0 0 0).withScratch u.ir u.ea u.rsel u.ppc := rfl
    _ = (s.withScratch 0 0 0 0).withScratch u.ir u.ea u.rsel u.ppc := by rw [erased]
    _ = s.withScratch u.ir u.ea u.rsel u.ppc := rfl

/-- A reading that no scratch value enters is the same on both sides. -/
theorem SameButScratch.reading {α : Type} {s u : State} (h : SameButScratch s u) (f : State → α)
    (hf : ∀ ir ea rsel ppc, f (s.withScratch ir ea rsel ppc) = f s) : f u = f s := by
  rw [h.eq_withScratch, hf]

theorem SameButScratch.psl {s u : State} (h : SameButScratch s u) : u.psl = s.psl :=
  h.reading State.psl fun _ _ _ _ => rfl

theorem SameButScratch.reg {s u : State} (h : SameButScratch s u) (q : Reg) : u.reg q = s.reg q :=
  h.reading (State.reg · q) fun _ _ _ _ => rfl

theorem SameButScratch.peek {s u : State} (h : SameButScratch s u) (x : Addr) : u.peek x = s.peek x :=
  h.reading (State.peek · x) fun _ _ _ _ => rfl

theorem SameButScratch.nonzero {s u : State} (h : SameButScratch s u) (q : Reg) : u.nonzero q = s.nonzero q :=
  h.reading (State.nonzero · q) fun _ _ _ _ => rfl

/-- An update that neither reads nor writes a scratch value is the same on both sides. -/
theorem SameButScratch.update {s u : State} (h : SameButScratch s u) (f : State → State)
    (hf : ∀ ir ea rsel ppc, f (s.withScratch ir ea rsel ppc) = (f s).withScratch ir ea rsel ppc) :
    SameButScratch (f s) (f u) := by
  rw [h.eq_withScratch, hf]
  exact sameButScratch_withScratch _ _ _ _ _

theorem State.setActiveBank_withScratch (s : State) (b : Bank) (ir : Byte) (ea : Addr) (rsel : BitVec 2) (ppc : Addr) :
    (s.withScratch ir ea rsel ppc).setActiveBank b = (s.setActiveBank b).withScratch ir ea rsel ppc := by
  unfold State.setActiveBank State.withScratch
  dsimp only
  split <;> rfl

theorem State.setReg_withScratch (s : State) (d : Reg) (v : Byte) (ir : Byte) (ea : Addr) (rsel : BitVec 2)
    (ppc : Addr) : (s.withScratch ir ea rsel ppc).setReg d v = (s.setReg d v).withScratch ir ea rsel ppc := by
  cases d
  case r0 => rfl
  all_goals exact State.setActiveBank_withScratch s _ ir ea rsel ppc

theorem SameButScratch.setReg {s u : State} (h : SameButScratch s u) (d : Reg) (v : Byte) :
    SameButScratch (s.setReg d v) (u.setReg d v) :=
  h.update (State.setReg · d v) (State.setReg_withScratch s d v)

theorem SameButScratch.stepReg {s u : State} (h : SameButScratch s u) (r : Reg) (k : Byte) :
    SameButScratch (s.stepReg r k) (u.stepReg r k) :=
  h.update (State.stepReg · r k) (State.setReg_withScratch s r (s.reg r + k))

theorem SameButScratch.setPsl {s u : State} (h : SameButScratch s u) (p : Byte) :
    SameButScratch (s.setPsl p) (u.setPsl p) :=
  h.update (State.setPsl · p) fun _ _ _ _ => rfl

theorem SameButScratch.setCc {s u : State} (h : SameButScratch s u) (c : BitVec 2) :
    SameButScratch (s.setCc c) (u.setCc c) :=
  h.update (State.setCc · c) fun _ _ _ _ => rfl

theorem SameButScratch.psuWrite {s u : State} (h : SameButScratch s u) (v : Byte) :
    SameButScratch (s.psuWrite v) (u.psuWrite v) :=
  h.update (State.psuWrite · v) fun _ _ _ _ => rfl

theorem SameButScratch.advance {s u : State} (h : SameButScratch s u) (n : BitVec 13) :
    SameButScratch (s.advance n) (u.advance n) :=
  h.update (State.advance · n) fun _ _ _ _ => rfl

theorem SameButScratch.record {s u : State} (h : SameButScratch s u) (x : Transaction) :
    SameButScratch (s.record x) (u.record x) :=
  h.update (State.record · x) fun _ _ _ _ => rfl

theorem SameButScratch.nextArg {s u : State} (h : SameButScratch s u) : SameButScratch s.nextArg u.nextArg :=
  h.update State.nextArg fun _ _ _ _ => rfl

theorem SameButScratch.writeAlu {s u : State} (h : SameButScratch s u) (d : Reg) (a : Alu) :
    SameButScratch (s.writeAlu d a) (u.writeAlu d a) :=
  (h.setReg d a.value).setPsl a.psl

/-! ### Once an address is formed, EA is the same too -/

/-- The two states differ in IR, rsel and PPC alone. -/
structure SameWithEa (s u : State) : Prop where
  same : SameButScratch s u
  ea : u.ea = s.ea

theorem SameButScratch.relEa {s u : State} (h : SameButScratch s u) (a : RelArg) :
    SameWithEa (s.relEa a) (u.relEa a) := by
  rw [h.eq_withScratch, State.relEa_eq, State.relEa_eq]
  exact ⟨rfl, rfl⟩

theorem SameButScratch.zeroEa {s u : State} (h : SameButScratch s u) (a : RelArg) :
    SameWithEa (s.zeroEa a) (u.zeroEa a) := by
  rw [h.eq_withScratch, State.zeroEa_eq, State.zeroEa_eq]
  exact ⟨rfl, rfl⟩

theorem SameButScratch.braEa {s u : State} (h : SameButScratch s u) (a : BraArg) :
    SameWithEa (s.braEa a) (u.braEa a) := by
  rw [h.eq_withScratch, State.braEa_eq, State.braEa_eq]
  exact ⟨rfl, rfl⟩

theorem SameButScratch.absBase {s u : State} (h : SameButScratch s u) (a : AbsArg) :
    SameWithEa (s.absBase a) (u.absBase a) := by
  rw [h.eq_withScratch, State.absBase_eq, State.absBase_eq]
  exact ⟨rfl, rfl⟩

theorem SameWithEa.setReg {s u : State} (h : SameWithEa s u) (d : Reg) (v : Byte) :
    SameWithEa (s.setReg d v) (u.setReg d v) :=
  ⟨h.same.setReg d v, by simpa using h.ea⟩

theorem SameWithEa.setEa {s u : State} (h : SameWithEa s u) (x : Addr) : SameWithEa (s.setEa x) (u.setEa x) :=
  ⟨h.same, rfl⟩

theorem SameWithEa.clearRsel {s u : State} (h : SameWithEa s u) : SameWithEa s.clearRsel u.clearRsel :=
  ⟨h.same, h.ea⟩

theorem SameWithEa.addIndex {s u : State} (h : SameWithEa s u) (r : Reg) :
    SameWithEa (s.addIndex r) (u.addIndex r) := by
  rw [State.addIndex, State.addIndex, h.ea, h.same.reg]
  exact h.setEa _

theorem SameWithEa.autoIndex {s u : State} (h : SameWithEa s u) (r : Reg) (k : Byte) :
    SameWithEa (s.autoIndex r k) (u.autoIndex r k) := by
  have hparams : u.params = s.params := h.same.reading State.params fun _ _ _ _ => rfl
  unfold State.autoIndex
  rw [hparams]
  split
  · rw [(h.addIndex r).same.reg]
    exact (h.addIndex r).setReg r _
  · rw [h.same.reg]
    exact (h.setReg r _).addIndex r

theorem SameButScratch.absEa {s u : State} (h : SameButScratch s u) (r : Reg) (a : AbsArg) :
    SameWithEa (s.absEa r a) (u.absEa r a) := by
  have hbase := h.absBase a
  unfold State.absEa
  dsimp only
  split
  · exact hbase
  · exact (hbase.addIndex r).clearRsel
  · exact (hbase.autoIndex r _).clearRsel
  · exact (hbase.autoIndex r _).clearRsel

theorem SameButScratch.braIndexedEa {s u : State} (h : SameButScratch s u) (a : BraArg) :
    SameWithEa (s.braIndexedEa a) (u.braIndexedEa a) := by
  have hbase := h.braEa a
  unfold State.braIndexedEa
  dsimp only
  rw [hbase.ea, hbase.same.reg]
  exact hbase.setEa _

theorem SameWithEa.jump {s u : State} (h : SameWithEa s u) : SameButScratch s.jump u.jump := by
  rw [State.jump, State.jump, h.ea]
  exact h.same.update (State.setPc · s.ea) fun _ _ _ _ => rfl

theorem SameWithEa.callEa {s u : State} (h : SameWithEa s u) : SameButScratch s.callEa u.callEa := by
  have hpc : u.pc = s.pc := h.same.reading State.pc fun _ _ _ _ => rfl
  rw [State.callEa, State.callEa, hpc]
  exact SameWithEa.jump ⟨h.same.update (State.push · s.pc) fun _ _ _ _ => rfl, h.ea⟩

theorem SameWithEa.storeAtEa {s u : State} (h : SameWithEa s u) {v w : Byte} (hv : w = v) :
    SameButScratch (s.storeAtEa v) (u.storeAtEa w) := by
  rw [State.storeAtEa, State.storeAtEa, h.ea, hv]
  exact h.same.update (State.memWrite · s.ea v) fun _ _ _ _ => rfl

/-! ### Operands and results -/

/-- Two operands of the same value, obtained in states that differ in scratch values alone. -/
structure SameOperand (o p : Operand) : Prop where
  value : p.value = o.value
  same : SameButScratch o.state p.state

theorem SameWithEa.eaOperand {s u : State} (h : SameWithEa s u) : SameOperand s.eaOperand u.eaOperand := by
  rw [State.eaOperand, State.eaOperand, h.ea]
  exact ⟨h.same.peek s.ea, h.same.record _⟩

theorem SameButScratch.portOperand {s u : State} (h : SameButScratch s u) (p : Port) :
    SameOperand (s.portOperand p) (u.portOperand p) :=
  ⟨h.reading State.portByte fun _ _ _ _ => rfl, h.update (State.portRead · p) fun _ _ _ _ => rfl⟩

theorem SameOperand.load {o p : Operand} (h : SameOperand o p) (d : Reg) : SameButScratch (o.load d) (p.load d) := by
  rw [Operand.load, Operand.load, h.value]
  exact (h.same.setReg d _).setCc _

theorem SameOperand.logical {o p : Operand} (h : SameOperand o p) (d : Reg) (f : Byte → Byte → Byte) :
    SameButScratch (o.logical d (f (o.state.reg d) o.value)) (p.logical d (f (p.state.reg d) p.value)) := by
  rw [h.value, h.same.reg]
  exact (h.same.setReg d _).setCc _

theorem SameOperand.writeAlu {o p : Operand} (h : SameOperand o p) (d : Reg) (f : Byte → Byte → Byte → Alu) :
    SameButScratch (o.state.writeAlu d (f o.state.psl (o.state.reg d) o.value))
      (p.state.writeAlu d (f p.state.psl (p.state.reg d) p.value)) := by
  rw [h.value, h.same.reg, h.same.psl]
  exact h.same.writeAlu d _

theorem SameOperand.compareWith {o p : Operand} (h : SameOperand o p) (d : Reg) :
    SameButScratch (o.compareWith d) (p.compareWith d) := by
  rw [Operand.compareWith, Operand.compareWith, h.value, h.same.reg, h.same.psl]
  exact h.same.setCc _

/-! ### Transfers whose tests agree -/

theorem SameButScratch.branchRel {s u : State} (h : SameButScratch s u) {b c : Bool} (hb : c = b) (a : RelArg) :
    SameButScratch (s.branchRel b a) (u.branchRel c a) := by
  subst hb
  cases c
  · exact h.advance 1
  · exact (h.relEa a).jump

theorem SameButScratch.branchAbs {s u : State} (h : SameButScratch s u) {b c : Bool} (hb : c = b) (a : BraArg) :
    SameButScratch (s.branchAbs b a) (u.branchAbs c a) := by
  subst hb
  cases c
  · exact h.advance 2
  · exact (h.braEa a).jump

theorem SameButScratch.callRel {s u : State} (h : SameButScratch s u) {b c : Bool} (hb : c = b) (a : RelArg) :
    SameButScratch (s.callRel b a) (u.callRel c a) := by
  subst hb
  cases c
  · exact h.advance 1
  · exact (h.relEa a).callEa

theorem SameButScratch.callAbs {s u : State} (h : SameButScratch s u) {b c : Bool} (hb : c = b) (a : BraArg) :
    SameButScratch (s.callAbs b a) (u.callAbs c a) := by
  subst hb
  cases c
  · exact h.advance 2
  · exact (h.braEa a).callEa

theorem SameButScratch.ite {s u s' u' : State} (b : Bool) (h : SameButScratch s u) (h' : SameButScratch s' u') :
    SameButScratch (if b then s else s') (if b then u else u') := by
  cases b
  · exact h'
  · exact h

/-! ### No instruction reads a scratch value that it has not written -/

/-- No instruction's outcome depends on the scratch values it starts with (R32 to R35). -/
theorem exec_withScratch (i : Instr) (s : State) (ir : Byte) (ea : Addr) (rsel : BitVec 2) (ppc : Addr) :
    ∃ t u, exec i s = .next t ∧ exec i (s.withScratch ir ea rsel ppc) = .next u ∧ SameButScratch t u := by
  have same := sameButScratch_withScratch s ir ea rsel ppc
  have arg := same.nextArg
  have reg (r : Reg) : SameOperand (s.regOperand r) ((s.withScratch ir ea rsel ppc).regOperand r) := ⟨rfl, same⟩
  have imm (x : Byte) : SameOperand (s.immOperand x) ((s.withScratch ir ea rsel ppc).immOperand x) := ⟨rfl, arg⟩
  have rel (a : RelArg) := (same.relEa a).eaOperand
  have abs (r : Reg) (a : AbsArg) := (same.absEa r a).eaOperand
  cases i with
  -- loads and stores
  | lodz r => exact ⟨_, _, rfl, rfl, (reg r).load _⟩
  | lodi r x => exact ⟨_, _, rfl, rfl, (imm x).load _⟩
  | lodr r a => exact ⟨_, _, rfl, rfl, (rel a).load _⟩
  | loda r a => exact ⟨_, _, rfl, rfl, (abs r a).load _⟩
  | strz r => exact ⟨_, _, rfl, rfl, (reg .r0).load _⟩
  | strr r a => exact ⟨_, _, rfl, rfl, (same.relEa a).storeAtEa ((same.relEa a).same.reg r)⟩
  | stra r a => exact ⟨_, _, rfl, rfl, (same.absEa r a).storeAtEa ((same.absEa r a).same.reg _)⟩
  -- bitwise operations
  | andz r => exact ⟨_, _, rfl, rfl, (reg r).logical _ (· &&& ·)⟩
  | andi r x => exact ⟨_, _, rfl, rfl, (imm x).logical _ (· &&& ·)⟩
  | andr r a => exact ⟨_, _, rfl, rfl, (rel a).logical _ (· &&& ·)⟩
  | anda r a => exact ⟨_, _, rfl, rfl, (abs r a).logical _ (· &&& ·)⟩
  | eorz r => exact ⟨_, _, rfl, rfl, (reg r).logical _ (· ^^^ ·)⟩
  | eori r x => exact ⟨_, _, rfl, rfl, (imm x).logical _ (· ^^^ ·)⟩
  | eorr r a => exact ⟨_, _, rfl, rfl, (rel a).logical _ (· ^^^ ·)⟩
  | eora r a => exact ⟨_, _, rfl, rfl, (abs r a).logical _ (· ^^^ ·)⟩
  | iorz r => exact ⟨_, _, rfl, rfl, (reg r).logical _ (· ||| ·)⟩
  | iori r x => exact ⟨_, _, rfl, rfl, (imm x).logical _ (· ||| ·)⟩
  | iorr r a => exact ⟨_, _, rfl, rfl, (rel a).logical _ (· ||| ·)⟩
  | iora r a => exact ⟨_, _, rfl, rfl, (abs r a).logical _ (· ||| ·)⟩
  -- arithmetic and rotates
  | addz r => exact ⟨_, _, rfl, rfl, (reg r).writeAlu _ add8⟩
  | addi r x => exact ⟨_, _, rfl, rfl, (imm x).writeAlu _ add8⟩
  | addr r a => exact ⟨_, _, rfl, rfl, (rel a).writeAlu _ add8⟩
  | adda r a => exact ⟨_, _, rfl, rfl, (abs r a).writeAlu _ add8⟩
  | subz r => exact ⟨_, _, rfl, rfl, (reg r).writeAlu _ sub8⟩
  | subi r x => exact ⟨_, _, rfl, rfl, (imm x).writeAlu _ sub8⟩
  | subr r a => exact ⟨_, _, rfl, rfl, (rel a).writeAlu _ sub8⟩
  | suba r a => exact ⟨_, _, rfl, rfl, (abs r a).writeAlu _ sub8⟩
  | comz r => exact ⟨_, _, rfl, rfl, (reg r).compareWith _⟩
  | comi r x => exact ⟨_, _, rfl, rfl, (imm x).compareWith _⟩
  | comr r a => exact ⟨_, _, rfl, rfl, (rel a).compareWith _⟩
  | coma r a => exact ⟨_, _, rfl, rfl, (abs r a).compareWith _⟩
  | dar r => exact ⟨_, _, rfl, rfl, same.setReg r _⟩
  | rrl r | rrr r => exact ⟨_, _, rfl, rfl, same.writeAlu r _⟩
  -- status
  | spsu | spsl => exact ⟨_, _, rfl, rfl, SameOperand.load ⟨rfl, same⟩ .r0⟩
  | lpsu => exact ⟨_, _, rfl, rfl, same.psuWrite _⟩
  | lpsl => exact ⟨_, _, rfl, rfl, same.setPsl _⟩
  | cpsu mask | ppsu mask => exact ⟨_, _, rfl, rfl, arg.psuWrite _⟩
  | cpsl mask | ppsl mask => exact ⟨_, _, rfl, rfl, arg.setPsl _⟩
  | tpsu mask | tpsl mask | tmi r mask => exact ⟨_, _, rfl, rfl, arg.setCc _⟩
  -- branches
  | bctr v a | bcfr v a => exact ⟨_, _, rfl, rfl, same.branchRel rfl a⟩
  | bcta v a | bcfa v a => exact ⟨_, _, rfl, rfl, same.branchAbs rfl a⟩
  | brnr r a => exact ⟨_, _, rfl, rfl, same.branchRel (same.nonzero r) a⟩
  | brna r a => exact ⟨_, _, rfl, rfl, same.branchAbs (same.nonzero r) a⟩
  | birr r a | bdrr r a =>
    exact ⟨_, _, rfl, rfl, (same.stepReg r _).branchRel ((same.stepReg r _).nonzero r) a⟩
  | bira r a | bdra r a =>
    exact ⟨_, _, rfl, rfl, (same.stepReg r _).branchAbs ((same.stepReg r _).nonzero r) a⟩
  | zbrr a => exact ⟨_, _, rfl, rfl, (same.zeroEa a).jump⟩
  | bxa a => exact ⟨_, _, rfl, rfl, (same.braIndexedEa a).jump⟩
  -- calls and returns
  | bstr v a | bsfr v a => exact ⟨_, _, rfl, rfl, same.callRel rfl a⟩
  | bsta v a | bsfa v a => exact ⟨_, _, rfl, rfl, same.callAbs rfl a⟩
  | bsnr r a => exact ⟨_, _, rfl, rfl, same.callRel (same.nonzero r) a⟩
  | bsna r a => exact ⟨_, _, rfl, rfl, same.callAbs (same.nonzero r) a⟩
  | zbsr a => exact ⟨_, _, rfl, rfl, (same.zeroEa a).callEa⟩
  | bsxa a => exact ⟨_, _, rfl, rfl, (same.braIndexedEa a).callEa⟩
  | retc v => exact ⟨_, _, rfl, rfl, .ite _ (same.update State.popJump fun _ _ _ _ => rfl) same⟩
  | rete v => exact ⟨_, _, rfl, rfl, .ite _ (same.update State.returnFromInterrupt fun _ _ _ _ => rfl) same⟩
  -- ports, HALT and the instructions that do nothing
  | redc r | redd r => exact ⟨_, _, rfl, rfl, (same.portOperand _).load r⟩
  | rede r port => exact ⟨_, _, rfl, rfl, (arg.portOperand _).load r⟩
  | wrtc r | wrtd r => exact ⟨_, _, rfl, rfl, same.record _⟩
  | wrte r port => exact ⟨_, _, rfl, rfl, arg.record _⟩
  | halt => exact ⟨_, _, rfl, rfl, rfl⟩
  | nop | illegal opcode => exact ⟨_, _, rfl, rfl, same⟩

/-! ### No step reads one either -/

theorem SameButScratch.applyEvent {s u : State} (h : SameButScratch s u) (e : Event) :
    SameButScratch (s.applyEvent e) (u.applyEvent e) := by
  rw [h.eq_withScratch]
  cases e <;> rfl

theorem SameButScratch.foldl_applyEvent {s u : State} (h : SameButScratch s u) (es : List Event) :
    SameButScratch (es.foldl State.applyEvent s) (es.foldl State.applyEvent u) := by
  induction es generalizing s u with
  | nil => exact h
  | cons e es ih => exact ih (h.applyEvent e)

theorem SameButScratch.boundary {s u : State} (h : SameButScratch s u) : SameButScratch s.boundary u.boundary := by
  rw [h.eq_withScratch]
  exact SameButScratch.foldl_applyEvent (s := { s with events := s.events.tail })
    (u := { s.withScratch u.ir u.ea u.rsel u.ppc with events := s.events.tail }) rfl s.arrived

theorem SameButScratch.takeInterrupt {s u : State} (h : SameButScratch s u) :
    SameButScratch s.takeInterrupt u.takeInterrupt := by
  rw [h.eq_withScratch, State.takeInterrupt_eq, State.takeInterrupt_eq]
  rfl

theorem SameButScratch.exec_fetched {s u : State} (h : SameButScratch s u) :
    ∃ t v, exec s.fetched s.afterOpcode = .next t ∧ exec u.fetched u.afterOpcode = .next v ∧ SameButScratch t v := by
  rw [h.eq_withScratch]
  exact exec_withScratch s.fetched s.afterOpcode s.afterOpcode.ir u.ea s.afterOpcode.rsel s.pc

/-! ### The condition-code table -/

/-- The table is indexed by a result byte and, in bit 8, the overflow (R20). -/
theorem ccTable_eq {idx : BitVec 9} {v : Byte} {ovf : Bool} (hv : idx.extractLsb' 0 8 = v) (ho : idx.getLsbD 8 = ovf) :
    ccTable idx = withCc (setBit 0 2 ovf) (cc8 v) := by
  rw [ccTable, hv, ho]
  generalize cc8 v = c
  clear hv ho
  revert c ovf; decide +kernel

/-- Setting CC alone is a table lookup with OVF kept (R20). -/
theorem withCc_eq_or (p : Byte) (c : BitVec 2) : withCc p c = (p &&& 0x3F) ||| withCc 0 c := by
  revert p c; decide +kernel

theorem ccTable_setWidth (v : Byte) : ccTable (v.setWidth 9) = withCc 0 (cc8 v) :=
  ccTable_eq (ovf := false) (by revert v; decide +kernel) (by revert v; decide +kernel)

/-- The composite index of a result and the value before it: the result in bits 7:0 and the difference of the top bits
in bit 8 (R20). -/
def compositeIndex (before v : Byte) : BitVec 9 :=
  v.setWidth 9 + (((v ^^^ before).setWidth 9 <<< 1) &&& 0x100#9)

theorem compositeIndex_fields (before v : Byte) :
    (compositeIndex before v).extractLsb' 0 8 = v ∧
      (compositeIndex before v).getLsbD 8 = (v.getLsbD 7 ^^ before.getLsbD 7) := by
  have top : ∀ x : Byte, (x.setWidth 9 <<< 1) &&& 0x100#9 = if x.getLsbD 7 then 0x100#9 else 0#9 := by decide +kernel
  have sum : ∀ (x : Byte) (b : Bool), (x.setWidth 9 + if b then 0x100#9 else 0#9).extractLsb' 0 8 = x ∧
      (x.setWidth 9 + if b then 0x100#9 else 0#9).getLsbD 8 = b := by decide +kernel
  rw [compositeIndex, top, BitVec.getLsbD_xor]
  exact sum v _

/-- CC and OVF of an add or a subtract are the table's (R20, R125, R130). -/
theorem arithPsl_ccTable (p : Byte) (c idc : Bool) (before v : Byte) :
    arithPsl p c idc (v.getLsbD 7 ^^ before.getLsbD 7) v &&& 0xC4 = ccTable (compositeIndex before v) := by
  obtain ⟨hv, ho⟩ := compositeIndex_fields before v
  rw [ccTable_eq hv ho, arithPsl]
  generalize (v.getLsbD 7 ^^ before.getLsbD 7) = ovf
  generalize cc8 v = k
  revert p c idc ovf k; decide +kernel

/-! ### The two banks -/

/-- In the storage view a new PSL exchanges the two triples exactly when RS changes (R11, R13). -/
theorem State.banks_setPsl (s : State) (v : Byte) :
    if pslRs v = pslRs s.psl then (s.setPsl v).activeBank = s.activeBank ∧ (s.setPsl v).inactiveBank = s.inactiveBank
    else (s.setPsl v).activeBank = s.inactiveBank ∧ (s.setPsl v).inactiveBank = s.activeBank := by
  cases hv : pslRs v <;> cases hs : pslRs s.psl <;> simp [State.activeBank, State.inactiveBank, hv, hs]

/-- Two writes of PSL in succession, the second giving the first PSL back, restore the registers (R14). -/
theorem State.setPsl_nextArg_setPsl (s : State) (p : Byte) {q : Byte} (hq : q = s.psl) :
    let u := (s.nextArg.setPsl p).nextArg.setPsl q
    (∀ r, u.reg r = s.reg r) ∧ u.bank0 = s.bank0 ∧ u.bank1 = s.bank1 ∧ u.psl = s.psl :=
  ⟨State.reg_setPsl_of_rs s.nextArg.nextArg (congrArg pslRs hq), rfl, rfl, hq⟩

/-! ### Calls -/

/-- A call that is not taken steps over its argument bytes (R166). -/
theorem calls_advance (s e : State) (n : BitVec 13) : Calls (.next (s.advance n)) s false e n :=
  ⟨_, rfl, ⟨⟨fun _ _ => rfl, rfl⟩, rfl, fun _ => rfl, ⟨rfl, rfl⟩, rfl, rfl, rfl, rfl, rfl, rfl, rfl⟩, rfl,
    State.pc_advance s n, rfl, rfl, rfl, rfl⟩

theorem calls_callRel (s : State) (taken : Bool) (a : RelArg) :
    Calls (.next (s.callRel taken a)) s taken (s.relEa a) 1 := by
  cases taken
  · exact calls_advance s _ 1
  · exact calls_callEa (frame_relEa [] 0 s a) (by rw [State.relEa_eq]) (State.pc_relEa s a) rfl

theorem calls_callAbs (s : State) (taken : Bool) (a : BraArg) :
    Calls (.next (s.callAbs taken a)) s taken (s.braEa a) 2 := by
  cases taken
  · exact calls_advance s _ 2
  · exact calls_callEa (frame_braEa [] 0 s a) (by rw [State.braEa_eq]) (State.pc_braEa s a) rfl

theorem calls_zeroEa (s : State) (a : RelArg) : Calls (.next (s.zeroEa a).callEa) s true (s.zeroEa a) 1 :=
  calls_callEa (frame_zeroEa [] 0 s a) (by rw [State.zeroEa_eq]) (State.pc_zeroEa s a) rfl

theorem calls_braIndexedEa (s : State) (a : BraArg) :
    Calls (.next (s.braIndexedEa a).callEa) s true (s.braIndexedEa a) 2 :=
  calls_callEa (frame_braIndexedEa [] 0 s a) (by simp [State.braIndexedEa, State.braEa_eq])
    (State.pc_braIndexedEa s a) rfl

/-- The test of the register calls in one line (R190). -/
theorem State.nonzero_eq (s : State) (r : Reg) : s.nonzero r = decide (s.reg r ≠ 0) := by
  rw [State.nonzero, Bool.eq_iff_iff, bne_iff_ne, decide_eq_true_iff]

/-! ### Returns -/

@[simp] theorem State.pc_popJump (s : State) : s.popJump.pc = s.stackTop := State.pc_setPc _ _

theorem State.pc_returnFromInterrupt (s : State) : s.returnFromInterrupt.pc = s.stackTop := State.pc_popJump s

/-- The entry below the stack pointer, in the list of entries (R28). -/
theorem State.some_stackTop (s : State) : some s.stackTop = s.ras.toList[(psuSp s.psu - 1).toNat]? := by
  rw [Vector.getElem?_toList, Vector.getElem?_eq_getElem (psuSp s.psu - 1).isLt]
  rfl

/-- A return from interrupt changes SP and II alone of PSU (R188, R220). -/
theorem withIi_withSp_high (u : Byte) (sp : BitVec 3) (b : Bool) : withIi (withSp u sp) b &&& 0xD8 = u &&& 0xD8 := by
  revert u sp b; decide +kernel

theorem CallFrame.refl (s : State) : CallFrame s s :=
  ⟨⟨fun _ _ => rfl, rfl⟩, rfl, fun _ => rfl, ⟨rfl, rfl⟩, rfl, rfl, rfl, rfl, rfl, rfl, rfl⟩

/-! ### Pushes -/

/-- A push replaces the entry that SP names (R28). -/
theorem State.ras_push (s : State) (a : Addr) : (s.push a).ras.toList = s.ras.toList.set (psuSp s.psu).toNat a :=
  Vector.toList_set s.sp.isLt

theorem psuSp_push (s : State) (a : Addr) : psuSp (s.push a).psu = psuSp s.psu + 1 := State.sp_push s a

theorem psuHigh_push (s : State) (a : Addr) : (s.push a).psu &&& 0xF8 = s.psu &&& 0xF8 := withSp_high _ _

/-- A run of pushes moves SP by their number and changes no other bit of PSU (R28). -/
theorem psu_foldl_push (s : State) (as : List Addr) :
    psuSp (as.foldl State.push s).psu = psuSp s.psu + BitVec.ofNat 3 as.length ∧
      (as.foldl State.push s).psu &&& 0xF8 = s.psu &&& 0xF8 := by
  induction as generalizing s with
  | nil => simp
  | cons a as ih =>
    obtain ⟨hsp, hhigh⟩ := ih (s.push a)
    refine ⟨?_, hhigh.trans (psuHigh_push s a)⟩
    rw [List.foldl_cons, hsp, psuSp_push, List.length_cons, BitVec.add_assoc, BitVec.ofNat_add, BitVec.add_comm 1]
    rfl

/-- At most eight pushes lie one after the other from the entry that SP named (R27, R28): the last one replaces an entry
that none of the others wrote. -/
theorem ras_foldl_push (s : State) (as : List Addr) (h8 : as.length ≤ 8) {k : Nat} (hk : k < as.length) :
    (as.foldl State.push s).ras.toList[((psuSp s.psu).toNat + k) % 8]? = as[k]? := by
  induction as using List.reverseRecOn with
  | nil => contradiction
  | append_singleton as a ih =>
    rw [List.length_append, List.length_singleton] at h8 hk
    have hslot : (psuSp (as.foldl State.push s).psu).toNat = ((psuSp s.psu).toNat + as.length) % 8 := by
      rw [(psu_foldl_push s as).1, BitVec.toNat_add, BitVec.toNat_ofNat]
      omega
    rw [List.foldl_concat, State.ras_push, hslot]
    obtain hold | rfl : k < as.length ∨ k = as.length := by omega
    · rw [List.getElem?_set_ne (by omega), ih (by omega) hold, List.getElem?_append_left hold]
    · rw [List.getElem?_set_self (by rw [Vector.length_toList]; omega), List.getElem?_concat_length]

end Sys2Proof.Machine

open Sys2Proof Sys2Proof.Machine

/-! ### The statements -/

/-- Settles O6, by the cases of a step: the boundary, the interrupt sequence and the fetched instruction each keep the
invariant. -/
theorem everyStepKeepsTheInvariant : Obligations.EveryStepKeepsTheInvariant := by
  intro s t hinv hstep
  obtain rfl | rfl | ⟨hrun, hexec⟩ := step_cases hstep
  · exact hinv.boundary
  · exact hinv.boundary.takeInterrupt
  · exact hinv.boundary.exec_fetched hrun hexec

/-- Settles O8: the boundaries of two such states differ in scratch values alone, so the steps go the same way, and each
way keeps it so. -/
theorem scratchValuesAreNeverRead : Obligations.ScratchValuesAreNeverRead := by
  intro s ir ea rsel ppc
  have hboundary := (sameButScratch_withScratch s ir ea rsel ppc).boundary
  have hreset : (s.withScratch ir ea rsel ppc).resetArrived = s.resetArrived := rfl
  have htaken : (s.withScratch ir ea rsel ppc).boundary.interruptTaken = s.boundary.interruptTaken :=
    hboundary.reading State.interruptTaken fun _ _ _ _ => rfl
  have hhalted : (s.withScratch ir ea rsel ppc).boundary.halted = s.boundary.halted :=
    hboundary.reading State.halted fun _ _ _ _ => rfl
  unfold step
  dsimp only
  rw [hreset, htaken, hhalted]
  split
  · exact ⟨_, _, rfl, rfl, hboundary⟩
  · split
    · exact ⟨_, _, rfl, rfl, hboundary.takeInterrupt⟩
    · split
      · exact ⟨_, _, rfl, rfl, hboundary⟩
      · exact hboundary.exec_fetched

/-- Settles O34: the table's entry is the condition code of the index's low byte with its bit 8 as OVF. -/
theorem flagsAgreeWithTheConditionCodeTable : Obligations.FlagsAgreeWithTheConditionCodeTable := by
  intro p before src result
  refine ⟨?_, arithPsl_ccTable p _ _ before _, arithPsl_ccTable p _ _ before _⟩
  rw [ccTable_setWidth, withCc_eq_or]

/-- Settles O41: each of the three instructions is one write of PSL. -/
theorem bankSwapHappensExactlyWhenRsChanges : Obligations.BankSwapHappensExactlyWhenRsChanges := by
  intro i s hi
  cases i with
  | lpsl => exact ⟨_, rfl, rfl, s.banks_setPsl _⟩
  | cpsl mask | ppsl mask => exact ⟨_, rfl, rfl, s.nextArg.banks_setPsl _⟩
  | _ => cases hi

/-- Settles O42: part of what every instruction keeps. -/
theorem noOtherInstructionSwapsBanks : Obligations.NoOtherInstructionSwapsBanks := by
  intro i s hi
  obtain ⟨t, ht, hframe⟩ := exec_frame i s
  exact ⟨t, ht, hframe.banks hi⟩

/-- Settles O43: the two masks cancel, so the second write gives PSL back, and no register moves in the physical
view. -/
theorem togglingTheBankTwiceRestoresRegisters : Obligations.TogglingTheBankTwiceRestoresRegisters := by
  have setClear : ∀ p : Byte, pslRs p = false → (p ||| 0x10) &&& ~~~0x10 = p := by decide +kernel
  have clearSet : ∀ p : Byte, pslRs p = true → (p &&& ~~~0x10) ||| 0x10 = p := by decide +kernel
  intro s t u
  constructor
  · intro hrs ht hu
    obtain rfl := Host.Outcome.next.inj ht
    obtain rfl := Host.Outcome.next.inj hu
    exact s.setPsl_nextArg_setPsl _ (setClear s.psl hrs)
  · intro hrs ht hu
    obtain rfl := Host.Outcome.next.inj ht
    obtain rfl := Host.Outcome.next.inj hu
    exact s.setPsl_nextArg_setPsl _ (clearSet s.psl hrs)

/-- Settles O49: each is a relative or an absolute call under its test. -/
theorem conditionalCalls : Obligations.ConditionalCalls := by
  intro v a b s
  have hTrue : condTrue v s.cc = decide (v = .always ∨ pslCc s.psl = v.bits) := condTrue_eq v s.cc
  have hFalse : condFalse v s.cc = decide (pslCc s.psl ≠ v.bits) := condFalse_eq v s.cc
  rw [← hTrue, ← hFalse]
  exact ⟨calls_callRel s _ a, calls_callAbs s _ b, calls_callRel s _ a, calls_callAbs s _ b⟩

/-- Settles O50: ZBSR and BSXA form their address and call; the others are calls under their test. -/
theorem otherCalls : Obligations.OtherCalls := by
  intro r a b s
  rw [← s.nonzero_eq r]
  exact ⟨calls_zeroEa s a, calls_braIndexedEa s b, calls_callRel s _ a, calls_callAbs s _ b⟩

/-- Settles O51, by the two outcomes of the test. -/
theorem returnsPopTheStack : Obligations.ReturnsPopTheStack := by
  intro v s
  have hTrue : condTrue v s.cc = decide (v = .always ∨ pslCc s.psl = v.bits) := condTrue_eq v s.cc
  dsimp only
  rw [← hTrue]
  simp only [exec, execRetc, execRete]
  cases condTrue v s.cc with
  | false =>
    exact ⟨⟨s, rfl, CallFrame.refl s, rfl, rfl, rfl, rfl, rfl⟩, ⟨s, rfl, CallFrame.refl s, rfl, rfl, rfl, rfl, rfl⟩⟩
  | true =>
    constructor
    · exact ⟨s.popJump, rfl, CallFrame.refl s, rfl, rfl, rfl, rfl,
        (congrArg some s.pc_popJump).trans s.some_stackTop, s.sp_popJump, withSp_high _ _⟩
    · exact ⟨s.returnFromInterrupt, rfl, CallFrame.refl s, rfl, rfl, rfl, rfl,
        (congrArg some s.pc_returnFromInterrupt).trans s.some_stackTop,
        (psuSp_withIi _ _).trans s.sp_popJump, psuIi_withIi _ _, withIi_withSp_high _ _ _⟩

/-- Settles O52: eight pushes bring SP back, so the ninth replaces the entry of the first. -/
theorem ninthPushOverwritesTheOldest : Obligations.NinthPushOverwritesTheOldest := by
  intro s a b seven hseven
  have hlength : (a :: seven).length = 8 := by rw [List.length_cons, hseven]
  generalize a :: seven = eight at hlength
  obtain ⟨hsp, hhigh⟩ := psu_foldl_push s eight
  have hback : psuSp (eight.foldl State.push s).psu = psuSp s.psu := by
    rw [hsp, hlength]
    exact BitVec.add_zero _
  refine ⟨hback, hhigh, fun k hk => ras_foldl_push s eight hlength.le (hlength ▸ hk), ?_, ?_, ?_⟩
  · rw [State.ras_push, hback]
  · rw [psuSp_push, hback]
  · rw [psuHigh_push, hhigh]

/-- Settles O57: part of what every instruction keeps. -/
theorem sequentialInstructionsStayInThePage : Obligations.SequentialInstructionsStayInThePage := by
  intro i s hi
  obtain ⟨t, ht, hframe⟩ := exec_frame i s
  exact ⟨t, ht, hframe.place hi⟩

/-- Settles O58: part of what every instruction keeps. -/
theorem onlyStatusCallsAndReturnsWritePsu : Obligations.OnlyStatusCallsAndReturnsWritePsu := by
  intro i s hi
  obtain ⟨t, ht, hframe⟩ := exec_frame i s
  exact ⟨t, ht, hframe.stack hi⟩

/-- Settles O59: `Enables` lists the three ways, and every other instruction keeps II at 1. -/
theorem onlyThreeInstructionsEnableInterrupts : Obligations.OnlyThreeInstructionsEnableInterrupts := by
  intro i s t hs ht hii
  obtain ⟨t', ht', hframe⟩ := exec_frame i s
  obtain rfl := Host.Outcome.next.inj (ht'.symm.trans ht)
  exact hframe.inhibit hs hii

/-- Settles O7: the memory lists nothing, PSU is 0x80, and the core is not halted. -/
theorem resetSatisfiesTheInvariant : Obligations.ResetSatisfiesTheInvariant :=
  ⟨rfl, by decide, nofun⟩

/-- Settles O9: all but the program counter and the list of entries are fields of the reset state as they stand. -/
theorem resetValues : Obligations.ResetValues := by
  refine ⟨rfl, rfl, rfl, rfl, rfl, rfl, rfl, ?_, ?_, rfl, rfl, rfl, rfl, rfl, rfl⟩
  · decide
  · rfl

/-- Settles O55: the fetch moves the offset on by one and HALT moves it back. -/
theorem haltStaysOnItsOpcode : Obligations.HaltStaysOnItsOpcode := by
  refine ⟨fun s => ?_, fun s hevents hrun hrequest hop => ?_⟩
  · simp only [exec, execHalt, State.advance, BitVec.sub_eq_add_neg]
  · have hfetched : ({ s with events := s.events.tail } : State).fetched = .halt := State.fetched_eq_halt.mpr hop
    rw [step_of_running hevents hrun hrequest, State.boundary_of_no_event hevents, hfetched, exec_halt_afterOpcode]
    exact ⟨_, rfl, rfl, rfl, rfl, Frame.refl _ _ s⟩

end

section
/-!
SUPPORT and PROOFS. The statements about the memory space (spec/20_memory.md): the step never stops; what the two stores
do, and that the next fetch sees what they have stored; that no other instruction writes memory.
-/

namespace Sys2Proof.Machine

/-! ### The step never stops (R49, R210) -/

/-- No instruction ends in a fault or a refusal. -/
theorem exec_next (i : Instr) (s : State) : ∃ t, exec i s = .next t :=
  (exec_frame i s).imp fun _ h => h.1

/-! ### The store at EA (R108), where e is the state in which the address has been formed -/

@[simp] theorem State.relEa_rsel (s : State) (a : RelArg) : (s.relEa a).rsel = s.rsel := by rw [State.relEa_eq]

/-- A store at EA touches memory and the record alone. -/
theorem storeAtEa_frame {regs : List Reg} {s e : State} (h : Frame regs 0 s e) (v : Byte) :
    RegsKept regs s (e.storeAtEa v) ∧ (e.storeAtEa v).psl = s.psl ∧ StackKept s (e.storeAtEa v) ∧
      InputsKept s (e.storeAtEa v) ∧ RestKept s (e.storeAtEa v) := by
  have hpsl := h.psl
  obtain ⟨hregs, -, hstack, -, hinputs, hrest⟩ := h
  exact ⟨hregs, hpsl, hstack, hinputs, hrest⟩

/-- The stored byte is read back (R50). -/
theorem State.peek_storeAtEa {s e : State} (hmem : e.mem = s.mem) (hw : s.mem.wf = true) (v : Byte) :
    (e.storeAtEa v).peek e.ea = v :=
  e.peek_memWrite e.ea v (hmem ▸ hw)

/-- Every other byte reads as it stood before the address was formed (R108). -/
theorem State.peek_storeAtEa_ne {s e : State} (hmem : e.mem = s.mem) (v : Byte) {x : Addr} (hx : x ≠ e.ea) :
    (e.storeAtEa v).peek x = s.peek x := by
  have hpeek : e.peek x = s.peek x := by rw [State.peek, State.peek, hmem]
  exact (e.peek_memWrite_ne v hx).trans hpeek

theorem State.peek_storeAtEa_eq_ite {s e : State} (hmem : e.mem = s.mem) (hw : s.mem.wf = true) (v : Byte) (x : Addr) :
    (e.storeAtEa v).peek x = if x = e.ea then v else s.peek x := by
  split
  · next hx => rw [hx, State.peek_storeAtEa hmem hw]
  · next hx => exact State.peek_storeAtEa_ne hmem v hx

/-- The fetch after a store decodes the stored byte wherever it looks at EA (R52). -/
theorem State.fetched_storeAtEa {s e : State} (hmem : e.mem = s.mem) (hw : s.mem.wf = true) {n : Addr} (hpc : e.pc = n)
    (v : Byte) :
    (e.storeAtEa v).fetched =
      decodeBytes (if n = e.ea then v else s.peek n) (if nextInPage n = e.ea then v else s.peek (nextInPage n))
        (if nextInPage (nextInPage n) = e.ea then v else s.peek (nextInPage (nextInPage n))) := by
  have hpc' : (e.storeAtEa v).pc = n := hpc
  simp only [State.fetched, hpc', State.peek_storeAtEa_eq_ite hmem hw]

/-! ### The two stores -/

theorem exec_strr (r : Reg) (a : RelArg) (s : State) :
    exec (.strr r a) s = .next ((s.relEa a).storeAtEa (s.reg r)) :=
  congrArg (fun v => Host.Outcome.next ((s.relEa a).storeAtEa v)) (s.reg_relEa a r)

theorem exec_stra (r : Reg) (a : AbsArg) (s : State) :
    exec (.stra r a) s = .next ((s.absEa r a).storeAtEa ((s.absEa r a).reg (if a.idx = .none then r else .r0))) := by
  rw [← dataReg_eq]
  rfl

/-! ### What leaves memory as it is -/

theorem State.writeAlu_mem (s : State) (d : Reg) (a : Alu) : (s.writeAlu d a).mem = s.mem := s.setReg_mem d a.value

/-- A byte into a register and CC from it: every load and every bitwise operation. -/
theorem Operand.logical_mem (o : Operand) (d : Reg) (v : Byte) : (o.logical d v).mem = o.state.mem :=
  o.state.setReg_mem d v

theorem State.relOperand_mem (s : State) (a : RelArg) : (s.relOperand a).state.mem = s.mem := s.relEa_mem a

theorem State.absOperand_mem (s : State) (r : Reg) (a : AbsArg) : (s.absOperand r a).state.mem = s.mem :=
  s.absEa_mem r a

theorem State.branchRel_mem (s : State) (taken : Bool) (a : RelArg) : (s.branchRel taken a).mem = s.mem := by
  cases taken
  · rfl
  · exact s.relEa_mem a

theorem State.branchAbs_mem (s : State) (taken : Bool) (a : BraArg) : (s.branchAbs taken a).mem = s.mem := by
  cases taken
  · rfl
  · exact s.braEa_mem a

theorem State.callRel_mem (s : State) (taken : Bool) (a : RelArg) : (s.callRel taken a).mem = s.mem := by
  cases taken
  · rfl
  · exact s.relEa_mem a

theorem State.callAbs_mem (s : State) (taken : Bool) (a : BraArg) : (s.callAbs taken a).mem = s.mem := by
  cases taken
  · rfl
  · exact s.braEa_mem a

end Sys2Proof.Machine

open Sys2Proof Sys2Proof.Machine

/-! ### The statements -/

/-- Settles O23: a store at EA in the frame of the relative address. -/
theorem storeRelativeWritesOneByte : Obligations.StoreRelativeWritesOneByte := by
  intro r a s e
  obtain ⟨hregs, hpsl, hstack, hinputs, hrest⟩ := storeAtEa_frame (frame_relEa [] 0 s a) (s.reg r)
  exact ⟨_, exec_strr r a s, fun hw => State.peek_storeAtEa (s.relEa_mem a) hw _,
    fun x hx => State.peek_storeAtEa_ne (s.relEa_mem a) _ hx, rfl, hregs, hpsl, hstack, hinputs, hrest,
    s.pc_relEa a, rfl, s.relEa_rsel a⟩

/-- Settles O24: a store at EA in the frame of the absolute address. -/
theorem storeAbsoluteWritesOneByte : Obligations.StoreAbsoluteWritesOneByte := by
  intro r a s e v
  obtain ⟨hregs, hpsl, hstack, hinputs, hrest⟩ := storeAtEa_frame (frame_absEa 0 s r a) v
  exact ⟨_, exec_stra r a s, fun hw => State.peek_storeAtEa (s.absEa_mem r a) hw v,
    fun x hx => State.peek_storeAtEa_ne (s.absEa_mem r a) v hx, rfl, fun _ => rfl, hregs, hpsl, hstack, hinputs, hrest,
    s.pc_absEa r a, rfl, rfl⟩

/-- Settles O25: every instruction but the two is made of operations that leave memory as it is. -/
theorem onlyStoresWriteMemory : Obligations.OnlyStoresWriteMemory := by
  intro i s hi
  cases i with
  | strr r a | stra r a => contradiction
  -- loads and bitwise operations
  | lodz r | strz r | andz r | eorz r | iorz r | spsu | spsl => exact ⟨_, rfl, Operand.logical_mem ⟨_, s⟩ _ _⟩
  | lodi r imm | andi r imm | eori r imm | iori r imm => exact ⟨_, rfl, Operand.logical_mem ⟨_, s.nextArg⟩ _ _⟩
  | lodr r a | andr r a | eorr r a | iorr r a =>
    exact ⟨_, rfl, (Operand.logical_mem _ _ _).trans (s.relOperand_mem a)⟩
  | loda r a | anda r a | eora r a | iora r a =>
    exact ⟨_, rfl, (Operand.logical_mem _ _ _).trans (s.absOperand_mem r a)⟩
  -- arithmetic and rotates
  | addz r | subz r | rrl r | rrr r => exact ⟨_, rfl, s.writeAlu_mem _ _⟩
  | addi r imm | subi r imm => exact ⟨_, rfl, s.nextArg.writeAlu_mem _ _⟩
  | addr r a | subr r a => exact ⟨_, rfl, (State.writeAlu_mem _ _ _).trans (s.relOperand_mem a)⟩
  | adda r a | suba r a => exact ⟨_, rfl, (State.writeAlu_mem _ _ _).trans (s.absOperand_mem r a)⟩
  | comz r | comi r imm => exact ⟨_, rfl, rfl⟩
  | comr r a => exact ⟨_, rfl, s.relOperand_mem a⟩
  | coma r a => exact ⟨_, rfl, s.absOperand_mem r a⟩
  | dar r => exact ⟨_, rfl, s.setReg_mem _ _⟩
  -- status
  | lpsu | lpsl | cpsu mask | cpsl mask | ppsu mask | ppsl mask | tpsu mask | tpsl mask | tmi r mask =>
    exact ⟨_, rfl, rfl⟩
  -- branches
  | bctr v a | bcfr v a | brnr r a => exact ⟨_, rfl, s.branchRel_mem _ a⟩
  | bcta v a | bcfa v a | brna r a => exact ⟨_, rfl, s.branchAbs_mem _ a⟩
  | birr r a | bdrr r a => exact ⟨_, rfl, (State.branchRel_mem _ _ a).trans (s.setReg_mem r _)⟩
  | bira r a | bdra r a => exact ⟨_, rfl, (State.branchAbs_mem _ _ a).trans (s.setReg_mem r _)⟩
  | zbrr a | zbsr a => exact ⟨_, rfl, s.zeroEa_mem a⟩
  | bxa a | bsxa a => exact ⟨_, rfl, s.braIndexedEa_mem a⟩
  -- calls and returns
  | bstr v a | bsfr v a | bsnr r a => exact ⟨_, rfl, s.callRel_mem _ a⟩
  | bsta v a | bsfa v a | bsna r a => exact ⟨_, rfl, s.callAbs_mem _ a⟩
  | retc v | rete v =>
    refine ⟨_, rfl, ?_⟩
    split <;> rfl
  -- ports, HALT and the instructions that do nothing
  | redc r | redd r => exact ⟨_, rfl, Operand.logical_mem (s.portOperand _) _ _⟩
  | rede r port => exact ⟨_, rfl, Operand.logical_mem (s.nextArg.portOperand _) _ _⟩
  | halt => exact ⟨_, rfl, State.advance_mem { s with halted := true } _⟩
  | wrtc r | wrtd r | wrte r port | nop | illegal opcode => exact ⟨_, rfl, rfl⟩

/-- Settles O26: each is a store at EA, and its fetch is the one of `State.fetched_storeAtEa`. -/
theorem storeIsSeenByTheNextFetch : Obligations.StoreIsSeenByTheNextFetch := by
  intro r s hw fetchedWith
  constructor
  · intro a
    exact ⟨_, exec_strr r a s, s.pc_relEa a, State.fetched_storeAtEa (s.relEa_mem a) hw (s.pc_relEa a) _⟩
  · intro a
    exact ⟨_, exec_stra r a s, s.pc_absEa r a, State.fetched_storeAtEa (s.absEa_mem r a) hw (s.pc_absEa r a) _⟩

/-- Settles O5, by the choice of R9: the boundary and the interrupt sequence are next states, and so is what any
instruction answers. -/
theorem everyStateHasANextState : Obligations.EveryStateHasANextState := by
  intro s
  unfold step
  dsimp only
  split
  · exact ⟨_, rfl⟩
  · split
    · exact ⟨_, rfl⟩
    · split
      · exact ⟨_, rfl⟩
      · exact exec_next _ _

end

section
/-!
SUPPORT and PROOFS. The statements about the encoding (spec/30_encoding.md). What the decoder answers is cut into what the
opcode byte alone settles, a fact about 256 values, and the argument bytes, which each format reads and writes back.
-/

namespace Sys2Proof

/-! ### The encoder writes back each field that the decoder has read -/

@[simp] theorem IndexMode.bits_ofBits (b : BitVec 2) : (IndexMode.ofBits b).bits = b := by
  revert b; decide

/-- The argument byte of format R (R66). -/
@[simp] theorem RelArg.byte_ofByte (b : Byte) : (RelArg.ofByte b).byte = b := by
  revert b; decide +kernel

/-- The high argument byte of format A (R67). -/
@[simp] theorem AbsArg.hi_ofBytes (hi lo : Byte) : (AbsArg.ofBytes hi lo).hi = hi := by
  have fields : ∀ b : Byte, BitVec.ofBool (b.getLsbD 7) ++ b.extractLsb' 5 2 ++ b.extractLsb' 0 5 = b := by
    decide +kernel
  rw [AbsArg.hi, AbsArg.ofBytes, IndexMode.bits_ofBits, BitVec.extractLsb'_append_eq_left]
  exact fields hi

/-- The low argument byte of format A (R67). -/
@[simp] theorem AbsArg.lo_ofBytes (hi lo : Byte) : (AbsArg.ofBytes hi lo).lo = lo :=
  BitVec.extractLsb'_append_eq_right

/-- The high argument byte of format B (R68). -/
@[simp] theorem BraArg.hi_ofBytes (hi lo : Byte) : (BraArg.ofBytes hi lo).hi = hi := by
  have fields : ∀ b : Byte, BitVec.ofBool (b.getLsbD 7) ++ b.extractLsb' 0 7 = b := by decide +kernel
  rw [BraArg.hi, BraArg.ofBytes, BitVec.extractLsb'_append_eq_left]
  exact fields hi

/-- The low argument byte of format B (R68). -/
@[simp] theorem BraArg.lo_ofBytes (hi lo : Byte) : (BraArg.ofBytes hi lo).lo = lo :=
  BitVec.extractLsb'_append_eq_right

/-! ### What the opcode byte alone settles (R60, R70 to R72) -/

/-- Decoding never leaves the well-formed instructions (R71, R72, R74). -/
theorem wf_decodeBytes (op b1 b2 : Byte) : (decodeBytes op b1 b2).wf = true := by
  have hargs : (decodeBytes op b1 b2).wf = (decodeBytes op 0 0).wf := by
    unfold decodeBytes
    dsimp only
    -- the groups of R70, and within some of them the members of R71
    split <;> (try split) <;> rfl
  have hmap : ∀ op : Byte, (decodeBytes op 0 0).wf = true := by decide +kernel
  exact hargs.trans (hmap op)

/-- The opcode is written back (R70). -/
theorem head?_encode_decodeBytes (op b1 b2 : Byte) : (encode (decodeBytes op b1 b2)).head? = some op := by
  have hargs : (encode (decodeBytes op b1 b2)).head? = (encode (decodeBytes op 0 0)).head? := by
    unfold decodeBytes
    dsimp only
    split <;> (try split) <;> simp only [encode, encZ, encI, encR, encA, encB, List.head?_cons]
  have hmap : ∀ op : Byte, (encode (decodeBytes op 0 0)).head? = some op := by decide +kernel
  exact hargs.trans (hmap op)

/-- An instruction has one, two or three bytes (R60). -/
theorem opcodeLength_cases (op : Byte) : opcodeLength op = 1 ∨ opcodeLength op = 2 ∨ opcodeLength op = 3 :=
  (decodeBytes_unused_args op 0 0).imp And.left (Or.imp And.left id)

/-! ### Bytes to instruction to bytes -/

/-- The argument bytes that the length counts are written back (R64 to R68). -/
theorem tail_encode_decodeBytes (op b1 b2 : Byte) :
    (encode (decodeBytes op b1 b2)).tail = [b1, b2].take (opcodeLength op - 1) := by
  unfold opcodeLength decodeBytes
  dsimp only
  split <;> (try split) <;> simp [Instr.length, encode, encZ, encI, encR, encA, encB]

/-- The encoder gives back the bytes that the decoder has looked at (R60, R74). -/
theorem encode_decodeBytes (op b1 b2 : Byte) :
    encode (decodeBytes op b1 b2) = [op, b1, b2].take (opcodeLength op) := by
  have hpos : 0 < opcodeLength op := by
    have := opcodeLength_cases op
    omega
  calc encode (decodeBytes op b1 b2)
    _ = op :: (encode (decodeBytes op b1 b2)).tail := (List.cons_head?_tail (head?_encode_decodeBytes op b1 b2)).symm
    _ = op :: [b1, b2].take (opcodeLength op - 1) := by rw [tail_encode_decodeBytes]
    _ = [op, b1, b2].take (opcodeLength op) := (List.take_cons hpos).symm

/-- The bytes that an opcode's length counts decode to its instruction, whatever follows them (R60). -/
theorem decode_take_append (op b1 b2 : Byte) (rest : List Byte) :
    decode ([op, b1, b2].take (opcodeLength op) ++ rest) = .instr (decodeBytes op b1 b2) rest := by
  obtain ⟨hlen, hargs⟩ | ⟨hlen, hargs⟩ | hlen := decodeBytes_unused_args op b1 b2
  · simp [decode, hlen, ← hargs]
  · simp [decode, hlen, ← hargs]
  · simp [decode, hlen]

/-! ### Instruction to bytes to instruction -/

/-- What the encoder writes is read as the instruction; a 0 stands where the format has no argument byte (R65 to R72). -/
theorem decodeBytes_encode {i : Instr} (hwf : i.wf = true) :
    ∃ op args, encode i = op :: args ∧ decodeBytes op (args.getD 0 0) (args.getD 1 0) = i := by
  cases i with
  -- formats Z and I
  | lodz r | eorz r | iorz r | addz r | subz r | comz r | dar r | rrl r | rrr r | redc r | redd r | wrtc r | wrtd r =>
    cases r <;> exact ⟨_, _, rfl, rfl⟩
  | lodi r imm | andi r imm | eori r imm | iori r imm | addi r imm | subi r imm | comi r imm | tmi r imm | rede r imm
  | wrte r imm => cases r <;> exact ⟨_, _, rfl, rfl⟩
  | retc v | rete v => cases v <;> exact ⟨_, _, rfl, rfl⟩
  | spsu | spsl | lpsu | lpsl | halt | nop => exact ⟨_, _, rfl, rfl⟩
  | cpsu mask | cpsl mask | ppsu mask | ppsl mask | tpsu mask | tpsl mask => exact ⟨_, _, rfl, rfl⟩
  -- register 0 of these two groups is HALT and NOP
  | andz r | strz r =>
    cases r with
    | r0 => contradiction
    | r1 | r2 | r3 => exact ⟨_, _, rfl, rfl⟩
  -- format R
  | lodr r a | strr r a | andr r a | eorr r a | iorr r a | addr r a | subr r a | comr r a | brnr r a | birr r a
  | bdrr r a | bsnr r a => cases r <;> exact ⟨_, _, rfl, congrArg _ a.ofByte_byte⟩
  | bctr v a | bstr v a => cases v <;> exact ⟨_, _, rfl, congrArg _ a.ofByte_byte⟩
  | zbrr a | zbsr a => exact ⟨_, _, rfl, congrArg _ a.ofByte_byte⟩
  -- formats A and B
  | loda r a | stra r a | anda r a | eora r a | iora r a | adda r a | suba r a | coma r a | brna r a | bira r a
  | bdra r a | bsna r a => cases r <;> exact ⟨_, _, rfl, congrArg _ a.ofBytes_bytes⟩
  | bcta v a | bsta v a => cases v <;> exact ⟨_, _, rfl, congrArg _ a.ofBytes_bytes⟩
  | bxa a | bsxa a => exact ⟨_, _, rfl, congrArg _ a.ofBytes_bytes⟩
  -- selector 3 of the condition-false groups is ZBRR, ZBSR, BXA and BSXA
  | bcfr v a | bsfr v a =>
    cases v with
    | always => contradiction
    | zero | plus | minus => exact ⟨_, _, rfl, congrArg _ a.ofByte_byte⟩
  | bcfa v a | bsfa v a =>
    cases v with
    | always => contradiction
    | zero | plus | minus => exact ⟨_, _, rfl, congrArg _ a.ofBytes_bytes⟩
  -- the ten opcodes of R72
  | illegal opcode =>
    have hmap : ∀ op ∈ illegalOpcodes, decodeBytes op 0 0 = .illegal op := by decide +kernel
    exact ⟨opcode, [], rfl, hmap opcode (List.contains_iff_mem.mp hwf)⟩

end Sys2Proof

open Sys2Proof

/-! ### The statements -/

/-- Settles O1: the instruction is decoded from some bytes, the encoder writes back those of them that its length counts,
and they decode to it again. -/
theorem decodeReadsBackEveryEncoding : Obligations.DecodeReadsBackEveryEncoding := by
  intro i rest hwf
  obtain ⟨op, args, -, rfl⟩ := decodeBytes_encode hwf
  rw [encode_decodeBytes, decode_take_append]

/-- Settles O2: well-formedness by the opcode map, the bytes by the round trip of each format. -/
theorem everyByteSequenceEncodesBack : Obligations.EveryByteSequenceEncodesBack := by
  intro op b1 b2
  exact ⟨wf_decodeBytes op b1 b2, encode_decodeBytes op b1 b2, opcodeLength_cases op⟩

/-- Settles O3: the decoder is run on each word. -/
theorem specWordsDecodeToTheirInstructions : Obligations.SpecWordsDecodeToTheirInstructions := by
  unfold Obligations.SpecWordsDecodeToTheirInstructions
  decide

end

section
/-!
SUPPORT and PROOFS. The statements about addressing (spec/40_addressing.md): each calculator in numbers, the interrupt
entry that uses one of them, and the cycles that an indirection costs.
-/

namespace Sys2Proof

/-! ### Argument bytes as numbers (R46) -/

/-- The low n bits of a high byte before a low byte, as a number. -/
theorem highBits_append_toNat (n : Nat) (hi lo : Byte) :
    (hi.extractLsb' 0 n ++ lo).toNat = (hi.toNat * 256 + lo.toNat) % (256 * 2 ^ n) := by
  have happend : (hi.extractLsb' 0 n ++ lo).toNat = (hi.extractLsb' 0 n).toNat <<< 8 ||| lo.toNat :=
    BitVec.toNat_append _ lo
  have hhigh : (hi.toNat * 256 + lo.toNat) / 256 = hi.toNat := by omega
  rw [happend, ← Nat.shiftLeft_add_eq_or_of_lt lo.isLt, Nat.shiftLeft_eq, BitVec.extractLsb'_toNat, Nat.shiftRight_zero,
    Nat.mod_mul, hhigh]
  omega

/-- The thirteen address bits of format A (R67). -/
theorem AbsArg.addr_ofBytes_toNat (hi lo : Byte) :
    (AbsArg.ofBytes hi lo).addr.toNat = (hi.toNat * 256 + lo.toNat) % 8192 :=
  highBits_append_toNat 5 hi lo

/-- The fifteen address bits of format B (R68). -/
theorem BraArg.addr_ofBytes_toNat (hi lo : Byte) :
    (BraArg.ofBytes hi lo).addr.toNat = (hi.toNat * 256 + lo.toNat) % 32768 :=
  highBits_append_toNat 7 hi lo

end Sys2Proof

namespace Sys2Proof.Machine

/-! ### The indirection in numbers (R84) -/

/-- Everything `resolve` does, for an address given as a number. -/
theorem State.resolve_numbers (s : State) {a : Addr} {b : Nat} (hb : a.toNat = b) (ind : Bool) :
    (s.resolve a ind).ea.toNat = resolvedNat s.mem ind b ∧ (s.resolve a ind).bus = pointerReads ind b ++ s.bus ∧
      s.resolve a ind = { s with ea := (s.resolve a ind).ea, bus := (s.resolve a ind).bus } := by
  subst hb
  rw [State.resolve_eq, pointerReads_eq]
  exact ⟨resolvedNat_eq s a ind, by cases ind <;> rfl, rfl⟩

/-- The record after the fetches of two argument bytes (R55, R62). -/
theorem State.bus_two_args (s : State) :
    s.nextArg.nextArg.bus = .fetchArg (wrapAdd s.pc 1) :: .fetchArg s.pc :: s.bus :=
  congrArg (fun x => Transaction.fetchArg x :: .fetchArg s.pc :: s.bus) s.pc_nextArg

/-! ### The index (R88, R90) -/

/-- A byte added inside the page, as a number (R88). -/
theorem wrapAdd_byte_toNat (a : Addr) (k : Byte) :
    (wrapAdd a (k.setWidth 13)).toNat = a.toNat / 8192 * 8192 + (a.toNat % 8192 + k.toNat) % 8192 := by
  have hk : (k.setWidth 13).toNat = k.toNat := BitVec.toNat_setWidth_of_le (by decide)
  rw [wrapAdd_toNat, hk]

/-- A byte added across the whole address, as a number (R90). -/
theorem fullAdd_toNat (a : Addr) (k : Byte) : (fullAdd a k).toNat = (a.toNat + k.toNat) % 32768 := by
  have hk : (k.setWidth 15).toNat = k.toNat := BitVec.toNat_setWidth_of_le (by decide)
  rw [fullAdd, BitVec.toNat_add, hk]

/-- The address of an auto-indexed form as a number: the index is the old content or the stepped one (R88). -/
theorem State.ea_autoIndex_toNat (s : State) (r : Reg) (k : Byte) :
    (s.autoIndex r k).ea.toNat =
      s.ea.toNat / 8192 * 8192 + (s.ea.toNat % 8192 + (match s.params.autoIndex with
        | .post => s.reg r
        | .pre => s.reg r + k).toNat) % 8192 := by
  rw [State.ea_autoIndex]
  exact wrapAdd_byte_toNat _ _

/-- The index is added inside the page of the address that the indirection has left, in the order that the parameter
sets (R86, R88). -/
theorem State.ea_absEa_toNat (s : State) (r : Reg) (a : AbsArg) :
    (s.absEa r a).ea.toNat =
      (s.absBase a).ea.toNat / 8192 * 8192 + ((s.absBase a).ea.toNat % 8192 + indexNat s r a) % 8192 := by
  have hreg : (s.absBase a).reg r = s.reg r := by rw [State.absBase_eq]; rfl
  have hparams : (s.absBase a).params = s.params := by rw [State.absBase_eq]
  unfold State.absEa indexNat
  dsimp only
  cases a.idx with
  | none =>
    dsimp only
    omega
  | indexed =>
    rw [← hreg]
    exact wrapAdd_byte_toNat _ _
  | autoInc | autoDec =>
    refine ((s.absBase a).ea_autoIndex_toNat r _).trans ?_
    rw [hparams, hreg]
    cases s.params.autoIndex <;> rfl

/-- The index register after the calculator, as a number (R88). -/
theorem State.reg_absEa_toNat (s : State) (r : Reg) (a : AbsArg) :
    ((s.absEa r a).reg r).toNat = steppedNat s r a := by
  rw [State.reg_absEa, steppedNat]
  cases a.idx <;> rfl

/-! ### The interrupt entry (R214 to R218) -/

/-- The byte that answers the acknowledge (R216; log 7). -/
theorem State.vectorByte_eq (s : State) : s.vectorByte = s.vectors.headD (Config.freeBusByte s.inputs) := by
  rw [State.vectorByte]
  cases s.vectors <;> rfl

/-- A step with no event and a request that is not inhibited runs the interrupt sequence, halted or not (R9, R214). -/
theorem step_of_interrupt {s : State} (he : s.arrived = []) (hirq : s.irq = true) (hii : psuIi s.psu = false) :
    step s = .next s.boundary.takeInterrupt := by
  have htaken : s.interruptTaken = true := by simp [State.interruptTaken, State.inhibited, hirq, hii]
  simp [step, State.resetArrived_of_no_event he, State.boundary_interruptTaken he, htaken]

/-- Everything the interrupt step does, for a vector byte v (R215 to R218). -/
theorem step_of_interrupt_eq {s : State} (he : s.arrived = []) (hirq : s.irq = true) (hii : psuIi s.psu = false)
    {v : Byte} (hv : s.vectors.headD (Config.freeBusByte s.inputs) = v) :
    let back := mkAddr s.page (if s.halted then s.offset + 1 else s.offset)
    let direct := zeroTarget (v.extractLsb' 0 7)
    let target := if v.getLsbD 7 then s.pointerAt direct else direct
    step s = .next
      { s with
        ras := s.ras.set s.sp.toNat back s.sp.isLt
        psu := withIi (withSp s.psu (s.sp + 1)) true
        halted := false
        page := pageOf target
        offset := offsetOf target
        ea := target
        vectors := s.vectors.tail
        inputs := s.inputs + 1
        events := s.events.tail
        bus := pointerReads (v.getLsbD 7) (sext7 (v.extractLsb' 0 7) % 8192).toNat ++ .intAck :: s.bus } := by
  have hvec : ({ s with events := s.events.tail } : State).vectorByte = v := (State.vectorByte_eq _).trans hv
  rw [step_of_interrupt he hirq hii, State.boundary_of_no_event he, State.takeInterrupt_eq, hvec, ← zeroTarget_toNat,
    pointerReads_eq]
  rfl

/-! ### The data reads of an instruction (R84, R91) -/

/-- The cycles that the indirection of i adds: 2 if its indirect bit is set and its test passes (R91, R166). -/
def indirectCycles (s : State) (i : Instr) : Nat :=
  if indirectBit i = some true ∧ passesTest s i = true then 2 else 0

/-- The test looks at PSL and the registers alone (R165, R173). -/
theorem passesTest_congr {s u : State} (hpsl : u.psl = s.psl) (hreg : ∀ q, u.reg q = s.reg q) (i : Instr) :
    passesTest u i = passesTest s i := by
  simp only [passesTest, hpsl, hreg]

/-- From s to t the instruction i read memory twice for its indirection, if it makes one, and at most once more for its
operand. -/
def ReadsFor (i : Instr) (s t : State) : Prop :=
  ∃ n, Reads n s t ∧ 2 * (n / 2) = indirectCycles s i

/-- An instruction with no indirect bit. -/
theorem ReadsFor.of_none {i : Instr} {s t : State} (h : Reads 0 s t) (hi : indirectBit i = none) : ReadsFor i s t :=
  ⟨0, h, by simp [indirectCycles, hi]⟩

/-- A branch or a call: an address if it is taken. -/
theorem ReadsFor.of_transfer {i : Instr} {s t : State} {ind taken : Bool}
    (h : Reads (if ind = true ∧ taken = true then 2 else 0) s t) (hi : indirectBit i = some ind)
    (ht : passesTest s i = taken) : ReadsFor i s t :=
  ⟨_, h, by rw [indirectCycles, hi, ht]; cases ind <;> cases taken <;> rfl⟩

/-- An address and nothing more. -/
theorem ReadsFor.of_address {i : Instr} {s t : State} {ind : Bool} (h : Reads (if ind then 2 else 0) s t)
    (hi : indirectBit i = some ind) (ht : passesTest s i = true) : ReadsFor i s t :=
  .of_transfer (h.of_eq (by simp)) hi ht

/-- An address and the operand there. -/
theorem ReadsFor.of_operand {i : Instr} {s t : State} {ind : Bool} (h : Reads ((if ind then 2 else 0) + 1) s t)
    (hi : indirectBit i = some ind) (ht : passesTest s i = true) : ReadsFor i s t :=
  ⟨_, h, by rw [indirectCycles, hi, ht]; cases ind <;> rfl⟩

/-- The test of the stepped register, in terms of the register before the step (R175, R177). -/
theorem State.nonzero_stepReg (s : State) (r : Reg) (k : Byte) :
    (s.stepReg r k).nonzero r = decide (s.reg r ≠ -k) := by
  rw [State.nonzero_eq, State.stepReg, State.reg_setReg, decide_eq_decide, ne_eq, ne_eq, add_eq_zero_iff_eq_neg]

/-- Every instruction reads memory twice for its indirection exactly when it makes one, and at most once more (R41,
R84). -/
theorem exec_readsFor (i : Instr) (s : State) : ∃ t, exec i s = .next t ∧ ReadsFor i s t := by
  have same := Reads.refl s
  have arg := reads_nextArg s
  cases i with
  -- loads and bitwise operations
  | lodz r | strz r | andz r | eorz r | iorz r | spsu | spsl =>
    exact ⟨_, rfl, .of_none (Reads.logical (o := ⟨_, s⟩) same _ _) rfl⟩
  | lodi r imm | andi r imm | eori r imm | iori r imm =>
    exact ⟨_, rfl, .of_none (Reads.logical (o := ⟨_, s.nextArg⟩) arg _ _) rfl⟩
  | lodr r a | andr r a | eorr r a | iorr r a =>
    exact ⟨_, rfl, .of_operand ((reads_relOperand s a).logical _ _) rfl rfl⟩
  | loda r a | anda r a | eora r a | iora r a =>
    exact ⟨_, rfl, .of_operand ((reads_absOperand s r a).logical _ _) rfl rfl⟩
  | strr r a => exact ⟨_, rfl, .of_address ((reads_relEa s a).record (.memWrite _ _) rfl rfl rfl) rfl rfl⟩
  | stra r a => exact ⟨_, rfl, .of_address ((reads_absEa s r a).record (.memWrite _ _) rfl rfl rfl) rfl rfl⟩
  -- arithmetic and rotates
  | addz r => exact ⟨_, rfl, .of_none (Reads.addInto (o := ⟨_, s⟩) same _) rfl⟩
  | subz r => exact ⟨_, rfl, .of_none (Reads.subFrom (o := ⟨_, s⟩) same _) rfl⟩
  | comz r => exact ⟨_, rfl, .of_none (Reads.compareWith (o := ⟨_, s⟩) same _) rfl⟩
  | addi r imm => exact ⟨_, rfl, .of_none (Reads.addInto (o := ⟨_, s.nextArg⟩) arg _) rfl⟩
  | subi r imm => exact ⟨_, rfl, .of_none (Reads.subFrom (o := ⟨_, s.nextArg⟩) arg _) rfl⟩
  | comi r imm => exact ⟨_, rfl, .of_none (Reads.compareWith (o := ⟨_, s.nextArg⟩) arg _) rfl⟩
  | addr r a => exact ⟨_, rfl, .of_operand ((reads_relOperand s a).addInto _) rfl rfl⟩
  | subr r a => exact ⟨_, rfl, .of_operand ((reads_relOperand s a).subFrom _) rfl rfl⟩
  | comr r a => exact ⟨_, rfl, .of_operand ((reads_relOperand s a).compareWith _) rfl rfl⟩
  | adda r a => exact ⟨_, rfl, .of_operand ((reads_absOperand s r a).addInto _) rfl rfl⟩
  | suba r a => exact ⟨_, rfl, .of_operand ((reads_absOperand s r a).subFrom _) rfl rfl⟩
  | coma r a => exact ⟨_, rfl, .of_operand ((reads_absOperand s r a).compareWith _) rfl rfl⟩
  | dar r | rrl r | rrr r => exact ⟨_, rfl, .of_none (same.keep (State.setReg_bus s r _) (State.setReg_ir s r _)) rfl⟩
  -- status
  | lpsu | lpsl => exact ⟨_, rfl, .of_none (same.keep rfl rfl) rfl⟩
  | cpsu mask | cpsl mask | ppsu mask | ppsl mask | tpsu mask | tpsl mask | tmi r mask =>
    exact ⟨_, rfl, .of_none (arg.keep rfl rfl) rfl⟩
  -- branches
  | bctr v a => exact ⟨_, rfl, .of_transfer (same.branchRel _ a) rfl (condTrue_eq v s.cc).symm⟩
  | bcta v a => exact ⟨_, rfl, .of_transfer (same.branchAbs _ a) rfl (condTrue_eq v s.cc).symm⟩
  | bcfr v a => exact ⟨_, rfl, .of_transfer (same.branchRel _ a) rfl (condFalse_eq v s.cc).symm⟩
  | bcfa v a => exact ⟨_, rfl, .of_transfer (same.branchAbs _ a) rfl (condFalse_eq v s.cc).symm⟩
  | brnr r a => exact ⟨_, rfl, .of_transfer (same.branchRel _ a) rfl (s.nonzero_eq r).symm⟩
  | brna r a => exact ⟨_, rfl, .of_transfer (same.branchAbs _ a) rfl (s.nonzero_eq r).symm⟩
  | birr r a => exact ⟨_, rfl, .of_transfer ((reads_stepReg s r 1).branchRel _ a) rfl (s.nonzero_stepReg r 1).symm⟩
  | bira r a => exact ⟨_, rfl, .of_transfer ((reads_stepReg s r 1).branchAbs _ a) rfl (s.nonzero_stepReg r 1).symm⟩
  | bdrr r a =>
    exact ⟨_, rfl, .of_transfer ((reads_stepReg s r (-1)).branchRel _ a) rfl (s.nonzero_stepReg r (-1)).symm⟩
  | bdra r a =>
    exact ⟨_, rfl, .of_transfer ((reads_stepReg s r (-1)).branchAbs _ a) rfl (s.nonzero_stepReg r (-1)).symm⟩
  | zbrr a | zbsr a => exact ⟨_, rfl, .of_address ((reads_zeroEa s a).keep rfl rfl) rfl rfl⟩
  | bxa a | bsxa a => exact ⟨_, rfl, .of_address ((reads_braIndexedEa s a).keep rfl rfl) rfl rfl⟩
  -- calls and returns
  | bstr v a => exact ⟨_, rfl, .of_transfer (reads_callRel s _ a) rfl (condTrue_eq v s.cc).symm⟩
  | bsta v a => exact ⟨_, rfl, .of_transfer (reads_callAbs s _ a) rfl (condTrue_eq v s.cc).symm⟩
  | bsfr v a => exact ⟨_, rfl, .of_transfer (reads_callRel s _ a) rfl (condFalse_eq v s.cc).symm⟩
  | bsfa v a => exact ⟨_, rfl, .of_transfer (reads_callAbs s _ a) rfl (condFalse_eq v s.cc).symm⟩
  | bsnr r a => exact ⟨_, rfl, .of_transfer (reads_callRel s _ a) rfl (s.nonzero_eq r).symm⟩
  | bsna r a => exact ⟨_, rfl, .of_transfer (reads_callAbs s _ a) rfl (s.nonzero_eq r).symm⟩
  | retc v | rete v =>
    refine ⟨_, rfl, .of_none ?_ rfl⟩
    split
    · exact same.keep rfl rfl
    · exact same
  -- ports, HALT and the instructions that do nothing
  | redc r | redd r => exact ⟨_, rfl, .of_none ((reads_portOperand s _).logical _ _) rfl⟩
  | rede r port => exact ⟨_, rfl, .of_none ((arg.trans (reads_portOperand _ _)).logical _ _) rfl⟩
  | wrtc r | wrtd r => exact ⟨_, rfl, .of_none (reads_portWrite s _ _) rfl⟩
  | wrte r port => exact ⟨_, rfl, .of_none (arg.trans (reads_portWrite _ _ _)) rfl⟩
  | halt =>
    exact ⟨_, rfl, .of_none (same.keep (State.advance_bus { s with halted := true } _) (State.advance_ir _ _)) rfl⟩
  | nop | illegal opcode => exact ⟨_, rfl, .of_none same rfl⟩

/-! ### The cycles of an instruction (R91, R252, R254) -/

/-- The cost of an instruction from the state after its opcode fetch. -/
theorem stepCost_exec (cycles : Byte → Nat) (s : State) (i : Instr) :
    ∃ t, exec i s.afterOpcode = .next t ∧ stepCost cycles s t = cycles (s.peek s.pc) + indirectCycles s i := by
  obtain ⟨t, hexec, n, hreads, hn⟩ := exec_readsFor i s.afterOpcode
  have htest : passesTest s.afterOpcode i = passesTest s i := passesTest_congr rfl (fun _ => rfl) i
  refine ⟨t, hexec, ?_⟩
  rw [stepCost_of_reads cycles rfl hreads, hn, indirectCycles, htest]
  rfl

/-- The form with the indirect bit b has that bit and the same test. -/
theorem indirectBit_withIndirect (b : Bool) (i : Instr) :
    indirectBit (withIndirect b i) = (indirectBit i).map fun _ => b := by
  cases i <;> rfl

theorem passesTest_withIndirect (s : State) (b : Bool) (i : Instr) :
    passesTest s (withIndirect b i) = passesTest s i := by
  cases i <;> rfl

/-- The cost of the form of an instruction with the indirect bit b, when its test passes. -/
theorem stepCost_withIndirect (cycles : Byte → Nat) (s : State) {i : Instr} (hi : (indirectBit i).isSome = true)
    (ht : passesTest s i = true) (b : Bool) :
    ∃ t, exec (withIndirect b i) s.afterOpcode = .next t ∧
      stepCost cycles s t = cycles (s.peek s.pc) + if b then 2 else 0 := by
  obtain ⟨ind, hind⟩ := Option.isSome_iff_exists.mp hi
  obtain ⟨t, hexec, hcost⟩ := stepCost_exec cycles s (withIndirect b i)
  refine ⟨t, hexec, hcost.trans ?_⟩
  rw [indirectCycles, indirectBit_withIndirect, hind, passesTest_withIndirect, ht]
  cases b <;> rfl

/-- The cost of the interrupt sequence (R224). -/
theorem stepCost_intAck (cycles : Byte → Nat) {s t : State} {ind : Bool} {b : Nat}
    (h : t.bus = pointerReads ind b ++ .intAck :: s.bus) : stepCost cycles s t = if ind then 2 else 0 := by
  rw [stepCost_of_bus cycles (new := pointerReads ind b ++ [.intAck]) (by rw [h, List.append_assoc]; rfl)]
  cases ind <;> simp [pointerReads, Transaction.isFetchOp, Transaction.isDataRead, List.countP_cons]

end Sys2Proof.Machine

open Sys2Proof Sys2Proof.Machine

/-! ### The statements -/

/-- Settles O14: every field is read off the state that the interrupt step answers. -/
theorem interruptEntrySavesAndChanges : Obligations.InterruptEntrySavesAndChanges := by
  intro s hevents hirq hii back vec target
  refine ⟨_, step_of_interrupt_eq hevents hirq hii (v := vec) rfl, ?_, ?_, ?_, ?_, rfl, ?_, rfl, rfl, rfl, rfl, rfl,
    rfl, rfl, rfl, rfl, rfl, rfl, rfl, rfl, rfl, rfl⟩
  · exact Vector.toList_set s.sp.isLt
  · exact (psuSp_withIi _ _).trans (psuSp_withSp _ _)
  · exact psuIi_withIi _ _
  · exact withIi_withSp_high _ _ _
  · exact (congrArg BitVec.toNat (mkAddr_parts _)).trans
      ((resolvedNat_eq s _ _).trans (congrArg _ (zeroTarget_toNat _)))

/-- Settles O17: an argument fetch, then the indirection from the relative target. -/
theorem relativeEffectiveAddress : Obligations.RelativeEffectiveAddress := by
  intro s hr ind base e
  have htarget : (relTarget s.page (s.offset + 1) (hr.extractLsb' 0 7)).toNat = base := by
    have hoffset : (s.offset + 1).toNat = (s.offset.toNat + 1) % 8192 := BitVec.toNat_add _ 1
    rw [relTarget_toNat, hoffset]
    omega
  exact s.nextArg.resolve_numbers htarget ind

/-- Settles O18: an argument fetch, then the indirection from the target in page 0. -/
theorem zeroPageEffectiveAddress : Obligations.ZeroPageEffectiveAddress :=
  fun s hr => s.nextArg.resolve_numbers (zeroTarget_toNat (hr.extractLsb' 0 7)) (hr.getLsbD 7)

/-- Settles O19: two argument fetches and the indirection, then the index. -/
theorem absoluteEffectiveAddress : Obligations.AbsoluteEffectiveAddress := by
  intro s r hr dr a ind base p e
  have htarget : (mkAddr s.page a.addr).toNat = base := by rw [mkAddr_toNat, AbsArg.addr_ofBytes_toNat]
  obtain ⟨hea, hbus, -⟩ := s.nextArg.nextArg.resolve_numbers htarget ind
  have hp : (s.absBase a).ea.toNat = p := hea
  refine ⟨IndexMode.bits_ofBits _, ?_, s.reg_absEa_toNat r a, frame_absEa 0 s r a, s.absEa_rsel r a, s.pc_absEa r a,
    ?_⟩
  · rw [State.ea_absEa_toNat, hp]
  · rw [State.absEa_bus, ← State.bus_two_args]
    exact hbus

/-- Settles O20: two argument fetches and the indirection; then BXA and BSXA add register 3. -/
theorem branchAbsoluteEffectiveAddress : Obligations.BranchAbsoluteEffectiveAddress := by
  intro s hr dr ind base p e x
  obtain ⟨hea, hbus, hframe⟩ := s.nextArg.nextArg.resolve_numbers (BraArg.addr_ofBytes_toNat hr dr) ind
  have hp : e.ea.toNat = p := hea
  refine ⟨hp, ?_, ?_, ?_, rfl⟩
  · have hreg : e.reg .r3 = s.reg .r3 := s.reg_braEa _ _
    have hx : x.ea = fullAdd e.ea (e.reg .r3) := rfl
    rw [hx, fullAdd_toNat, hp, hreg]
  · rw [← State.bus_two_args]
    exact hbus
  · have hoffset : s.offset + 2 = s.offset + 1 + 1 := (BitVec.add_assoc _ 1 1).symm
    rw [hoffset]
    exact hframe

/-- Settles O60: the cost is the opcode's and 2 for the indirection, whose reads every instruction makes exactly when
its bit is set and its test passes; the interrupt sequence fetches no opcode. -/
theorem indirectionCostsTwoCycles : Obligations.IndirectionCostsTwoCycles := by
  intro cycles s
  refine ⟨fun hevents hrunning hrequest => ?_, fun i hi htest => ?_, fun hevents hirq hii => ?_⟩
  · rw [step_of_running hevents hrunning hrequest, State.boundary_of_no_event hevents]
    exact stepCost_exec cycles { s with events := s.events.tail } s.fetched
  · obtain ⟨t, ht, hcost⟩ := stepCost_withIndirect cycles s hi htest false
    obtain ⟨u, hu, hcost'⟩ := stepCost_withIndirect cycles s hi htest true
    exact ⟨t, u, ht, hu, hcost, by rw [hcost', hcost]; rfl⟩
  · exact ⟨_, step_of_interrupt_eq hevents hirq hii rfl, stepCost_intAck cycles rfl⟩

end

section
/-!
SUPPORT and PROOFS. The statements about the loads and STRZ (spec/41_load_store.md R100 to R105): each moves the byte
that its operand form supplies; the data reads are those of the operand alone.
-/

namespace Sys2Proof.Machine

/-- A move writes the byte, CC from the byte, and nothing else (R104, R105). -/
theorem load_writes_cc {s : State} {o : Form} (hf : Frame o.also 0 s o.after) (v : Byte) :
    WritesReg (.next (Operand.load ⟨v, o.after⟩ o.dest)) s o v ccMask (fun p => pslCc p = cc8 v) :=
  (load_writes hf v).imp fun _ hp => hp ▸ pslCc_withCc _ _

/-! ### The two loads from memory, by the operand form that the statements name -/

theorem exec_lodr (r : Reg) (a : RelArg) (s : State) :
    exec (.lodr r a) s = .next (Operand.load ⟨s.peek (s.relEa a).ea, (formR s r a).after⟩ r) :=
  congrArg (fun o => Host.Outcome.next (Operand.load o r)) (relOperand_eq s r a)

theorem exec_loda (r : Reg) (a : AbsArg) (s : State) :
    exec (.loda r a) s = .next (Operand.load ⟨s.peek (s.absEa r a).ea, (formA s r a).after⟩ (dataReg r a)) :=
  congrArg (fun o => Host.Outcome.next (Operand.load o (dataReg r a))) (absOperand_eq s r a)

/-! ### The data reads of an operand (R41, R104) -/

/-- The count of all data reads grows by the reads made in between. -/
theorem Reads.dataReads {n : Nat} {s t : State} (h : Reads n s t) : t.dataReads = s.dataReads + n := by
  obtain ⟨-, new, hbus, -, hcount⟩ := h
  rw [State.dataReads, State.dataReads, hbus, List.countP_append, hcount, Nat.add_comm]

theorem dataReads_formR (s : State) (r : Reg) (a : RelArg) :
    (formR s r a).after.dataReads = s.dataReads + 1 + (if a.ind then 2 else 0) := by
  have hreads : (formR s r a).after.dataReads = s.dataReads + ((if a.ind then 2 else 0) + 1) :=
    (reads_relOperand s a).dataReads
  omega

theorem dataReads_formA (s : State) (r : Reg) (a : AbsArg) :
    (formA s r a).after.dataReads = s.dataReads + 1 + (if a.ind then 2 else 0) := by
  have hreads : (formA s r a).after.dataReads = s.dataReads + ((if a.ind then 2 else 0) + 1) :=
    (reads_absOperand s r a).dataReads
  omega

end Sys2Proof.Machine

open Sys2Proof Sys2Proof.Machine

/-! ### The statements -/

/-- Settles O21: each load moves the byte of its operand form; LODR and LODA read memory in forming the operand. -/
theorem loadsWriteTheByteReadAndCc : Obligations.LoadsWriteTheByteReadAndCc := by
  refine ⟨fun r s => ?lodz, fun r imm s => ?lodi, fun r a s => ⟨?lodr, dataReads_formR s r a⟩,
    fun r a s => ⟨?loda, dataReads_formA s r a⟩⟩
  case lodz => exact load_writes_cc (formZ_frame s r) _
  case lodi => exact load_writes_cc (formI_frame s r imm) imm
  case lodr =>
    rw [exec_lodr]
    exact load_writes_cc (formR_frame s r a) _
  case loda =>
    rw [exec_loda]
    exact load_writes_cc (formA_frame s r a) _

/-- Settles O22: STRZ moves R0, with the named register as the destination. -/
theorem storeZeroCopiesR0AndSetsCc : Obligations.StoreZeroCopiesR0AndSetsCc :=
  fun r s => load_writes_cc (o := ⟨s, s.r0, r, []⟩) (Frame.refl [] 0 s) s.r0

end

section
/-!
SUPPORT and PROOFS. The statements about AND, exclusive OR and inclusive OR (spec/42_logical.md R110 to R122): the
twelve instructions are one operation on bytes applied through the four operand forms, so the frame is said once for
every operation and every form.
-/

namespace Sys2Proof.Machine

/-! ### The destination before the operation: no form but an auto-indexed one has stepped it (R87, R88) -/

theorem before_formZ (s : State) (r : Reg) : (formZ s r).before = s.r0 := rfl

theorem before_formI (s : State) (r : Reg) (imm : Byte) : (formI s r imm).before = s.reg r := s.reg_nextArg r

theorem before_formR (s : State) (r : Reg) (a : RelArg) : (formR s r a).before = s.reg r := s.reg_relEa a r

/-! ### One operation on bytes, through any operand form -/

/-- An operation on the destination and the operand that the form supplies writes its result, CC from the result, and
nothing else (R122). -/
theorem logical_writes_cc {s : State} {o : Form} {p : Operand} {old : Byte} (hf : Frame o.also 0 s o.after)
    (hp : p = ⟨o.value, o.after⟩) (hold : o.before = old) (f : Byte → Byte → Byte) :
    WritesReg (.next (p.logical o.dest (f (p.state.reg o.dest) p.value))) s o (f old o.value) ccMask
      (fun q => pslCc q = cc8 (f old o.value)) := by
  subst hp hold
  exact (logical_writes hf o.value (f o.before o.value)).imp fun _ hq => hq ▸ pslCc_withCc _ _

end Sys2Proof.Machine

open Sys2Proof Sys2Proof.Machine

/-! ### The statements -/

/-- Settles O27: the formats Z and I supply their operand without a memory access, and leave the destination alone. -/
theorem logicalOnRegisterOrLiteral : Obligations.LogicalOnRegisterOrLiteral := by
  refine ⟨fun r s => ?registers, fun r imm s => ?literals⟩
  case registers =>
    have writes := logical_writes_cc (p := s.regOperand r) (formZ_frame s r) rfl (before_formZ s r)
    exact ⟨writes (· &&& ·), writes (· ^^^ ·), writes (· ||| ·)⟩
  case literals =>
    have writes := logical_writes_cc (p := s.immOperand imm) (formI_frame s r imm) rfl (before_formI s r imm)
    exact ⟨writes (· &&& ·), writes (· ^^^ ·), writes (· ||| ·)⟩

/-- Settles O28: the formats R and A read the byte at EA in forming the operand; an auto-indexed form may step R0
itself before the operation reads it, so there the old value is the form's own. -/
theorem logicalOnMemory : Obligations.LogicalOnMemory := by
  refine ⟨fun r a s => ?relative, fun r a s => ?absolute⟩
  case relative =>
    have writes := logical_writes_cc (formR_frame s r a) (relOperand_eq s r a) (before_formR s r a)
    exact ⟨writes (· &&& ·), writes (· ^^^ ·), writes (· ||| ·)⟩
  case absolute =>
    have writes := logical_writes_cc (formA_frame s r a) (absOperand_eq s r a) rfl
    exact ⟨writes (· &&& ·), writes (· ^^^ ·), writes (· ||| ·)⟩

end

section
/-!
SUPPORT and PROOFS. The statements about the adds, the subtracts, the compares and the decimal adjust
(spec/43_arithmetic.md R125 to R142): first the value and the flags of each operation as numbers, then one rule that
carries an operation on bytes through the four operand forms, then the statements.
-/

namespace Sys2Proof.Machine

/-! ### Single bits and digits as numbers -/

theorem bitByte_toNat (b : Bool) : (bitByte b).toNat = if b then 1 else 0 := by
  cases b <;> rfl

theorem bit_le_one (b : Bool) : (if b then 1 else 0) ≤ 1 := by
  cases b <;> decide

theorem eq_ff_iff (v : Byte) : v = 0xFF ↔ v.toNat = 255 :=
  BitVec.toNat_inj.symm

theorem lowNibble_toNat (v : Byte) : (lowNibble v).toNat = v.toNat % 16 := by
  rw [lowNibble, BitVec.extractLsb'_toNat, Nat.shiftRight_zero]

theorem lowNibble_ult (v b : Byte) : (lowNibble v).ult (lowNibble b) = decide (v.toNat % 16 < b.toNat % 16) := by
  rw [BitVec.ult, lowNibble_toNat, lowNibble_toNat]

theorem lowNibble_ule (v b : Byte) : (lowNibble v).ule (lowNibble b) = decide (v.toNat % 16 ≤ b.toNat % 16) := by
  rw [BitVec.ule, lowNibble_toNat, lowNibble_toNat]

theorem topBit_eq (v : Byte) : v.getLsbD 7 = decide (v.toNat / 128 = 1) := by
  revert v; decide +kernel

/-- The overflow of an add or a subtract is a change of the top bit (R125, R130). -/
theorem topBit_xor (v b : Byte) : (v.getLsbD 7 ^^ b.getLsbD 7) = decide (v.toNat / 128 ≠ b.toNat / 128) := by
  rw [topBit_eq, topBit_eq, Bool.eq_iff_iff, Bool.xor_iff_ne, ne_eq, decide_eq_decide, decide_eq_true_iff]
  omega

/-! ### The fields of the status byte after an add or a subtract (R125, R130) -/

section
variable (p : Byte) (c idc ovf : Bool) (result : Byte)

@[simp] theorem pslC_arithPsl : pslC (arithPsl p c idc ovf result) = c :=
  have ⟨hc, _⟩ := arithPsl_fields p c idc ovf result
  hc

@[simp] theorem pslIdc_arithPsl : pslIdc (arithPsl p c idc ovf result) = idc :=
  have ⟨_, hidc, _⟩ := arithPsl_fields p c idc ovf result
  hidc

@[simp] theorem pslOvf_arithPsl : pslOvf (arithPsl p c idc ovf result) = ovf :=
  have ⟨_, _, hovf, _⟩ := arithPsl_fields p c idc ovf result
  hovf

@[simp] theorem pslCc_arithPsl : pslCc (arithPsl p c idc ovf result) = cc8 result :=
  pslCc_withCc _ _

@[simp] theorem pslWc_arithPsl : pslWc (arithPsl p c idc ovf result) = pslWc p := by
  rw [arithPsl, pslWc_withCc]
  revert p c idc ovf
  decide +kernel

end

/-! ### The sum and its flags (R125) -/

theorem add8_value_toNat (p before src : Byte) :
    (add8 p before src).value.toNat =
      (before.toNat + src.toNat + if pslWc p && pslC p then 1 else 0) % 256 := by
  rw [add8, BitVec.toNat_add, BitVec.toNat_add, bitByte_toNat, carryIn, Nat.mod_add_mod]

theorem add8_value_toNat_of_wc_clear {p : Byte} (hwc : pslWc p = false) (before src : Byte) :
    (add8 p before src).value.toNat = (before.toNat + src.toNat) % 256 := by
  rw [add8_value_toNat, hwc, Bool.false_and, if_neg Bool.false_ne_true, Nat.add_zero]

theorem add8_value (p before src : Byte) : (add8 p before src).value = sumByte p before src := by
  apply BitVec.eq_of_toNat_eq
  rw [add8_value_toNat, sumByte, BitVec.toNat_ofNat]

theorem add8_flags (p before src : Byte) : SumFlags before (add8 p before src).value (add8 p before src).psl :=
  ⟨pslC_arithPsl _ _ _ _ _, (pslIdc_arithPsl _ _ _ _ _).trans (lowNibble_ult _ _),
    (pslOvf_arithPsl _ _ _ _ _).trans (topBit_xor _ _), pslCc_arithPsl _ _ _ _ _⟩

/-- No add writes WC (R125). -/
theorem pslWc_add8 (p before src : Byte) : pslWc (add8 p before src).psl = pslWc p :=
  pslWc_arithPsl _ _ _ _ _

/-! ### The difference and its flags (R130) -/

theorem sub8_value_toNat (p before src : Byte) :
    (sub8 p before src).value.toNat =
      (before.toNat + 256 - (src.toNat + if pslWc p && !pslC p then 1 else 0)) % 256 := by
  rw [sub8, BitVec.toNat_sub, BitVec.toNat_sub, bitByte_toNat, borrowIn]
  split <;> omega

theorem sub8_value (p before src : Byte) : (sub8 p before src).value = differenceByte p before src := by
  apply BitVec.eq_of_toNat_eq
  rw [sub8_value_toNat, differenceByte, BitVec.toNat_ofInt]
  split <;> omega

theorem sub8_flags (p before src : Byte) :
    DifferenceFlags before (sub8 p before src).value (sub8 p before src).psl :=
  ⟨pslC_arithPsl _ _ _ _ _, (pslIdc_arithPsl _ _ _ _ _).trans (lowNibble_ule _ _),
    (pslOvf_arithPsl _ _ _ _ _).trans (topBit_xor _ _), pslCc_arithPsl _ _ _ _ _⟩

/-! ### The order of two operands (R135) -/

theorem orderCc_sub (x y : Int) : orderCc (x - y) = if x = y then 0 else if y < x then 1 else 2 := by
  simp only [orderCc, sub_eq_zero, sub_pos]

theorem com8_eq (p a b : Byte) : com8 p a b = orderCode p a b := by
  simp only [com8, orderCode, orderCc_sub, Nat.cast_inj, Nat.cast_lt]

/-! ### One operation on bytes, through the four operand forms -/

/-- What an operation does with the operand that any form has supplied, it does in the formats Z, I, R and A. -/
theorem every_form_writes {result : Operand → Reg → State} {value : Byte → Byte → Byte → Byte} {mask : Byte}
    {flags : Byte → Byte → Byte → Byte → Prop}
    (h : ∀ {s : State} {o : Form}, Frame o.also 0 s o.after →
      WritesReg (.next (result ⟨o.value, o.after⟩ o.dest)) s o (value s.psl o.before o.value) mask
        (flags s.psl o.before o.value)) :
    (∀ (r : Reg) (s : State),
      WritesReg (.next (result (s.regOperand r) .r0)) s (formZ s r) (value s.psl s.r0 (s.reg r)) mask
        (flags s.psl s.r0 (s.reg r))) ∧
    (∀ (r : Reg) (imm : Byte) (s : State),
      WritesReg (.next (result (s.immOperand imm) r)) s (formI s r imm) (value s.psl (s.reg r) imm) mask
        (flags s.psl (s.reg r) imm)) ∧
    (∀ (r : Reg) (a : RelArg) (s : State),
      let x := s.peek (s.relEa a).ea
      WritesReg (.next (result (s.relOperand a) r)) s (formR s r a) (value s.psl (s.reg r) x) mask
        (flags s.psl (s.reg r) x)) ∧
    (∀ (r : Reg) (a : AbsArg) (s : State),
      let old := (formA s r a).before
      let x := s.peek (s.absEa r a).ea
      WritesReg (.next (result (s.absOperand r a) (dataReg r a))) s (formA s r a) (value s.psl old x) mask
        (flags s.psl old x)) := by
  refine ⟨fun r s => ?formatZ, fun r imm s => ?formatI, fun r a s => ?formatR, fun r a s => ?formatA⟩
  case formatZ => exact h (formZ_frame s r)
  case formatI =>
    rw [← before_formI s r imm]
    exact h (formI_frame s r imm)
  case formatR =>
    rw [relOperand_eq s r a, ← before_formR s r a]
    exact h (formR_frame s r a)
  case formatA =>
    rw [absOperand_eq]
    exact h (formA_frame s r a)

theorem addInto_writes_sum {s : State} {o : Form} (hf : Frame o.also 0 s o.after) :
    WritesReg (.next (Operand.addInto ⟨o.value, o.after⟩ o.dest)) s o (sumByte s.psl o.before o.value) arithMask
      (SumFlags o.before (sumByte s.psl o.before o.value)) := by
  rw [← add8_value]
  exact (addInto_writes hf o.value).imp fun _ hq => hq ▸ add8_flags _ _ _

theorem subFrom_writes_difference {s : State} {o : Form} (hf : Frame o.also 0 s o.after) :
    WritesReg (.next (Operand.subFrom ⟨o.value, o.after⟩ o.dest)) s o (differenceByte s.psl o.before o.value)
      arithMask (DifferenceFlags o.before (differenceByte s.psl o.before o.value)) := by
  rw [← sub8_value]
  exact (subFrom_writes hf o.value).imp fun _ hq => hq ▸ sub8_flags _ _ _

theorem compareWith_writes_order {s : State} {o : Form} (hf : Frame o.also 0 s o.after) :
    WritesReg (.next (Operand.compareWith ⟨o.value, o.after⟩ o.dest)) s o o.before ccMask
      (fun q => pslCc q = orderCode s.psl o.before o.value) :=
  (compareWith_writes hf o.value).imp fun _ hq => hq ▸ (pslCc_withCc _ _).trans (com8_eq _ _ _)

/-! ### The true carries (R125), the true borrows (R130) -/

/-- C is the carry out of bit 7, unless the sum goes once around. -/
theorem add8_carry {p before src : Byte} {cin : Nat} (hcin : cin = if pslWc p && pslC p then 1 else 0) :
    pslC (add8 p before src).psl = decide (256 ≤ before.toNat + src.toNat + cin ∧ src.toNat + cin < 256) := by
  obtain ⟨hc, -, -, -⟩ := add8_flags p before src
  have hle : cin ≤ 1 := hcin ▸ bit_le_one _
  rw [hc, add8_value_toNat, ← hcin, decide_eq_decide]
  omega

/-- IDC is the carry out of bit 3, unless the low digit goes once around. -/
theorem add8_digitCarry {p before src : Byte} {cin : Nat} (hcin : cin = if pslWc p && pslC p then 1 else 0) :
    pslIdc (add8 p before src).psl =
      decide (16 ≤ before.toNat % 16 + src.toNat % 16 + cin ∧ src.toNat % 16 + cin < 16) := by
  obtain ⟨-, hidc, -, -⟩ := add8_flags p before src
  have hle : cin ≤ 1 := hcin ▸ bit_le_one _
  rw [hidc, add8_value_toNat, ← hcin, decide_eq_decide]
  omega

/-- C is the not-borrow out of bit 7, and 1 where the difference goes once around. -/
theorem sub8_notBorrow {p before src : Byte} {bin : Nat} (hbin : bin = if pslWc p && !pslC p then 1 else 0) :
    pslC (sub8 p before src).psl = decide (src.toNat + bin ≤ before.toNat ∨ src.toNat + bin = 256) := by
  obtain ⟨hc, -, -, -⟩ := sub8_flags p before src
  have hle : bin ≤ 1 := hbin ▸ bit_le_one _
  rw [hc, sub8_value_toNat, ← hbin, decide_eq_decide]
  omega

/-- IDC is the not-borrow out of bit 3, and 1 where the low digit goes once around. -/
theorem sub8_notDigitBorrow {p before src : Byte} {bin : Nat} (hbin : bin = if pslWc p && !pslC p then 1 else 0) :
    pslIdc (sub8 p before src).psl =
      decide (src.toNat % 16 + bin ≤ before.toNat % 16 ∨ src.toNat % 16 + bin = 16) := by
  obtain ⟨-, hidc, -, -⟩ := sub8_flags p before src
  have hle : bin ≤ 1 := hbin ▸ bit_le_one _
  rw [hidc, sub8_value_toNat, ← hbin, decide_eq_decide]
  omega

/-! ### Decimal adjust and packed decimal (R141, R142) -/

theorem darConstant_eq (t : DarTable) (c idc : Bool) :
    darConstant t c idc = if c then (if idc then t.k11 else t.k10) else (if idc then t.k01 else t.k00) := by
  cases c <;> cases idc <;> rfl

theorem State.setPsl_setReg_self (s : State) (r : Reg) (v : Byte) : (s.setReg r v).setPsl s.psl = s.setReg r v :=
  calc (s.setReg r v).setPsl s.psl
    _ = (s.setReg r v).setPsl (s.setReg r v).psl := by rw [State.setReg_psl]
    _ = s.setReg r v := rfl

/-- DAR writes its register and leaves PSL as it stands (R141). -/
theorem exec_dar (r : Reg) (s : State) :
    exec (.dar r) s =
      .next ((s.setReg r (s.reg r - darConstant s.params.darAdj (pslC s.psl) (pslIdc s.psl))).setPsl s.psl) := by
  rw [State.setPsl_setReg_self]
  rfl

/-- The default table takes six from each digit whose carry flag is 0 (R141). -/
theorem darConstant_darDefault_toNat (c idc : Bool) :
    (darConstant Config.darDefault c idc).toNat = (if c then 0 else 96) + if idc then 0 else 6 := by
  cases c <;> cases idc <;> rfl

theorem isBcd_iff (v : Byte) : isBcd v = true ↔ v.toNat / 16 < 10 ∧ v.toNat % 16 < 10 := by
  rw [isBcd, Bool.and_eq_true, decide_eq_true_iff, decide_eq_true_iff]

/-- A decimal digit with six added carries out of its four bits exactly when the decimal digits carry; without a carry
the six is still in it, and k takes it away. -/
theorem decimal_sum_digits {x y k d : Nat} (hx : x / 16 < 10 ∧ x % 16 < 10) (hy : y / 16 < 10 ∧ y % 16 < 10)
    (hk : k = (if 256 ≤ x + 102 + y then 0 else 96) + if 16 ≤ (x + 102) % 16 + y % 16 then 0 else 6)
    (hd : d = (256 - k + (x + 102 + y) % 256) % 256) :
    (d / 16 < 10 ∧ d % 16 < 10) ∧
      d / 16 * 10 + d % 16 + (if 256 ≤ x + 102 + y then 100 else 0) =
        x / 16 * 10 + x % 16 + (y / 16 * 10 + y % 16) := by
  subst hk hd
  split_ifs <;> omega

end Sys2Proof.Machine

open Sys2Proof Sys2Proof.Machine

/-! ### The statements -/

/-- Settles O29: the four adds are one sum through the four operand forms. -/
theorem addsWriteSumAndFlags : Obligations.AddsWriteSumAndFlags :=
  every_form_writes (result := Operand.addInto) (value := sumByte)
    (flags := fun p old x => SumFlags old (sumByte p old x)) addInto_writes_sum

/-- Settles O30: the four subtracts are one difference through the four operand forms. -/
theorem subtractsWriteDifferenceAndFlags : Obligations.SubtractsWriteDifferenceAndFlags :=
  every_form_writes (result := Operand.subFrom) (value := differenceByte)
    (flags := fun p old x => DifferenceFlags old (differenceByte p old x)) subFrom_writes_difference

/-- Settles O31: the four compares are one order code through the four operand forms, and leave the register operand. -/
theorem comparesWriteTheTrueOrder : Obligations.ComparesWriteTheTrueOrder :=
  every_form_writes (result := Operand.compareWith) (value := fun _ old _ => old)
    (flags := fun p old x q => pslCc q = orderCode p old x) compareWith_writes_order

/-- Settles O32: the flags compare the result with the old value; a sum that wraps falls below it, but for the corner,
where it comes back to it. -/
theorem addCarriesAreTrueCarriesButForOneCorner : Obligations.AddCarriesAreTrueCarriesButForOneCorner := by
  intro p before src cin q
  have hle : cin ≤ 1 := bit_le_one _
  have hc : pslC q = _ := add8_carry (cin := cin) rfl
  have hidc : pslIdc q = _ := add8_digitCarry (cin := cin) rfl
  rw [hc, hidc, eq_ff_iff]
  refine ⟨fun h => ?carry, fun h => ⟨?same, ?clear⟩, fun h => ?digitCarry, fun h => ?digitClear⟩
  case carry | digitCarry => rw [decide_eq_decide]; omega
  case clear | digitClear => rw [decide_eq_false_iff_not]; omega
  case same =>
    rw [← BitVec.toNat_inj, add8_value_toNat]
    omega

/-- Settles O33: as for the adds, but a result equal to the old value counts as no borrow. -/
theorem subtractBorrowsAreTrueBorrowsButForOneCorner : Obligations.SubtractBorrowsAreTrueBorrowsButForOneCorner := by
  intro p before src bin q
  have hle : bin ≤ 1 := bit_le_one _
  have hc : pslC q = _ := sub8_notBorrow (bin := bin) rfl
  have hidc : pslIdc q = _ := sub8_notDigitBorrow (bin := bin) rfl
  rw [hc, hidc, eq_ff_iff]
  refine ⟨fun h => ?notBorrow, fun h => ⟨?same, ?set⟩, fun h => ?notDigitBorrow, fun h => ?digitSet⟩
  case notBorrow | notDigitBorrow => rw [decide_eq_decide]; omega
  case set | digitSet => rw [decide_eq_true_iff]; omega
  case same =>
    rw [← BitVec.toNat_inj, sub8_value_toNat]
    omega

/-- Settles O35: DAR writes a register with no status byte of its own, so PSL is written with what it holds. -/
theorem decimalAdjustSubtractsTheSelectedConstant : Obligations.DecimalAdjustSubtractsTheSelectedConstant := by
  refine ⟨rfl, fun r s => ?_⟩
  intro k
  rw [exec_dar, darConstant_eq]
  exact writesReg_of_form (o := ⟨s, k, r, []⟩) (Frame.refl [] 0 s) rfl rfl rfl

/-- Settles O36: no carry enters either add, the first does not overflow, and the flags of the second say which digits
still hold the six. -/
theorem decimalAdditionRecipeIsRight : Obligations.DecimalAdditionRecipeIsRight := by
  intro p x y hwc hx hy u w d
  rw [isBcd_iff] at hx hy
  have hwc' : pslWc u.psl = false := (pslWc_add8 p x 0x66).trans hwc
  have hcin : 0 = if pslWc u.psl && pslC u.psl then 1 else 0 := by rw [hwc']; rfl
  have hu : u.value.toNat = x.toNat + 102 := by
    have hsum : u.value.toNat = (x.toNat + 102) % 256 := add8_value_toNat_of_wc_clear hwc x 0x66
    omega
  have hw : w.value.toNat = (x.toNat + 102 + y.toNat) % 256 := by rw [add8_value_toNat_of_wc_clear hwc', hu]
  have hc : pslC w.psl = decide (256 ≤ x.toNat + 102 + y.toNat) := by
    rw [add8_carry hcin, hu, decide_eq_decide]
    omega
  have hidc : pslIdc w.psl = decide (16 ≤ (x.toNat + 102) % 16 + y.toNat % 16) := by
    rw [add8_digitCarry hcin, hu, decide_eq_decide]
    omega
  have hk := darConstant_darDefault_toNat (pslC w.psl) (pslIdc w.psl)
  have hd : d.toNat = _ := BitVec.toNat_sub _ _
  rw [hw] at hd
  simp only [isBcd_iff, bcdValue, hc, hidc, decide_eq_true_iff] at hk hd ⊢
  exact decimal_sum_digits hx hy hk hd

end

section
/-!
SUPPORT and PROOFS. The statement about the rotates (spec/44_rotate.md R145 to R147): the bit that enters and the bit
that leaves as numbers, then each result as a number, then one rule for what both rotates write.
-/

namespace Sys2Proof.Machine

/-! ### The end bits of a byte as numbers -/

theorem topBit_toNat (b : Byte) : (if b.getLsbD 7 then 1 else 0) = b.toNat / 128 := by
  rw [topBit_eq]
  simp only [decide_eq_true_iff]
  split <;> omega

theorem topBit_eq_decide_le (b : Byte) : b.getLsbD 7 = decide (128 ≤ b.toNat) := by
  rw [topBit_eq, decide_eq_decide]
  omega

theorem lowBit_eq (b : Byte) : b.getLsbD 0 = decide (b.toNat % 2 = 1) :=
  Nat.testBit_zero b.toNat

theorem lowBit_toNat (b : Byte) : (if b.getLsbD 0 then 1 else 0) = b.toNat % 2 := by
  rw [lowBit_eq]
  simp only [decide_eq_true_iff]
  split <;> omega

/-! ### The result of a rotate as a number (R146, R147) -/

/-- A bit that enters at the bottom of a byte moved left is added to its double. -/
theorem shiftLeft_or_bitByte (b : Byte) (enters : Bool) :
    b <<< 1 ||| bitByte enters = BitVec.ofNat 8 (2 * b.toNat + if enters then 1 else 0) := by
  revert b enters; decide +kernel

/-- A bit that enters at the top of a byte moved right adds 128 to its half. -/
theorem ushiftRight_or_bitByte (b : Byte) (enters : Bool) :
    b >>> 1 ||| bitByte enters <<< 7 = BitVec.ofNat 8 (b.toNat / 2 + 128 * if enters then 1 else 0) := by
  revert b enters; decide +kernel

theorem rotateLeft_value (p b : Byte) :
    (rotateLeft p b).value =
      BitVec.ofNat 8 (2 * b.toNat + if pslWc p then (if pslC p then 1 else 0) else b.toNat / 128) := by
  rw [rotateLeft, shiftLeft_or_bitByte, ← topBit_toNat]
  cases pslWc p <;> rfl

theorem rotateRight_value (p b : Byte) :
    (rotateRight p b).value =
      BitVec.ofNat 8 (b.toNat / 2 + 128 * if pslWc p then (if pslC p then 1 else 0) else b.toNat % 2) := by
  rw [rotateRight, ushiftRight_or_bitByte, ← lowBit_toNat]
  cases pslWc p <;> rfl

/-! ### What a rotate writes (R145) -/

/-- The flags of R145: CC from the result v, and C and IDC from the bit shifted out when WC = 1. -/
def RotateFlags (p v : Byte) (out : Bool) (q : Byte) : Prop :=
  pslCc q = cc8 v ∧ pslC q = (if pslWc p then out else pslC p) ∧ pslIdc q = (if pslWc p then out else pslIdc p)

theorem rotatePsl_flags (p v : Byte) (out : Bool) : RotateFlags p v out (rotatePsl p out v) := by
  obtain ⟨hcc, hc, hidc, -⟩ := rotatePsl_fields p out v
  exact ⟨hcc, hc, hidc⟩

/-- A rotate writes no bit of PSL but CC, IDC and C. -/
theorem rotatePsl_kept (p v : Byte) (out : Bool) : rotatePsl p out v &&& ~~~rotateMask = p &&& ~~~rotateMask := by
  obtain ⟨-, -, -, hkept⟩ := rotatePsl_fields p out v
  exact hkept

/-- The result, the status byte of a rotate, and nothing else. -/
theorem writeAlu_rotate_writes (s : State) (r : Reg) (v : Byte) (out : Bool) :
    WritesReg (.next (s.writeAlu r ⟨v, rotatePsl s.psl out v⟩)) s ⟨s, 0, r, []⟩ v rotateMask
      (RotateFlags s.psl v out) :=
  writesReg_of_form (o := ⟨s, 0, r, []⟩) (Frame.refl [] 0 s) (pslRs_rotatePsl _ _ _) (rotatePsl_kept _ _ _)
    (rotatePsl_flags _ _ _)

end Sys2Proof.Machine

open Sys2Proof Sys2Proof.Machine

/-! ### The statement -/

/-- Settles O37: both rotates write a register and the status byte of the bit shifted out, which is the top bit for RRL
and the low bit for RRR. -/
theorem rotatesMoveOneBit : Obligations.RotatesMoveOneBit := by
  intro r s b c left right flags
  have hleft : (rotateLeft s.psl (s.reg r)).value = left := rotateLeft_value _ _
  have hright : (rotateRight s.psl (s.reg r)).value = right := rotateRight_value _ _
  rw [← hleft, ← hright, ← topBit_eq_decide_le, ← lowBit_eq]
  exact ⟨writeAlu_rotate_writes s r _ _, writeAlu_rotate_writes s r _ _⟩

end

section
/-!
SUPPORT and PROOFS. The statements about the status registers (spec/45_status.md R150 to R163): one rule each for a write
of PSU, a write of PSL and a test under mask, then the interrupt sequence that follows a CPSU.
-/

namespace Sys2Proof.Machine

/-! ### Status writes (R161, R162) -/

/-- A mask that is applied again at the end need not be applied first. -/
theorem and_mask_and_mask (u v k : Byte) : u &&& k &&& v &&& k = u &&& v &&& k := by
  ext n
  grind

theorem or_and_mask (u v k : Byte) : ((u &&& k) ||| v) &&& k = (u ||| v) &&& k := by
  ext n
  grind

/-- A CPSU whose mask selects II leaves it clear (R154). -/
theorem psuIi_of_mask_clears (u : Byte) {m : Byte} (hm : m.getLsbD 5 = true) :
    psuIi (u &&& ~~~m &&& psuMask) = false := by
  rw [psuIi_and_psuMask, BitVec.getLsbD_and, BitVec.getLsbD_not, hm, Bool.not_true, Bool.and_false, Bool.and_false]

/-- Writing PSU changes PSU alone, if all that went before is fetching; v may differ from w in bits 4:3 (R161). -/
theorem psuWrite_writesPsu {s f : State} (hf : Frame [] 0 s f) {v w : Byte} (hv : v &&& psuMask = w &&& psuMask) :
    WritesPsu (.next (f.psuWrite v)) s f w := by
  have hpsl : f.psl = s.psl := hf.psl
  obtain ⟨hregs, -, ⟨-, hras⟩, hmem, hinputs, hrest⟩ := hf
  exact ⟨_, rfl, hv, hras, hpsl, hregs, hmem, hinputs, hrest, rfl, rfl, rfl, rfl⟩

/-- Writing PSL changes PSL alone, if all that went before is fetching; both banks stay where they are (R162). -/
theorem setPsl_writesPsl {s f : State} (hf : Frame [] 0 s f) (hbank0 : f.bank0 = s.bank0) (hbank1 : f.bank1 = s.bank1)
    (v : Byte) : WritesPsl (.next (f.setPsl v)) s f v := by
  obtain ⟨⟨hreg, -⟩, -, hstack, hmem, hinputs, hrest⟩ := hf
  exact ⟨_, rfl, rfl, hreg .r0 List.not_mem_nil, hbank0, hbank1, hstack, hmem, hinputs, hrest, rfl, rfl, rfl, rfl⟩

/-! ### Tests under mask (R158 to R160) -/

/-- The masked byte is the mask exactly when every selected bit is 1. -/
theorem and_eq_mask_iff (v m : Byte) :
    v &&& m = m ↔ ∀ n : Fin 8, m.getLsbD n.val = true → v.getLsbD n.val = true := by
  constructor
  · intro h n hm
    rw [← h, BitVec.getLsbD_and, Bool.and_eq_true] at hm
    exact hm.1
  · intro h
    refine BitVec.eq_of_getLsbD_eq fun n hn => ?_
    have hbit := h ⟨n, hn⟩
    rw [BitVec.getLsbD_and]
    cases hm : m.getLsbD n
    · exact Bool.and_false _
    · rw [hbit hm, Bool.and_self]

/-- A test of the byte v writes CC alone; x[r] is as it was. -/
theorem test_writes_cc (s : State) (r : Reg) (v m : Byte) :
    WritesReg (.next (s.nextArg.setCc (testCc v m))) s (formI s r m) (s.reg r) ccMask
      (fun p => pslCc p = if ∀ n : Fin 8, m.getLsbD n.val = true → v.getLsbD n.val = true then 0 else 2) := by
  have hcc := (pslCc_withCc s.psl (testCc v m)).trans (if_congr (and_eq_mask_iff v m) rfl rfl)
  exact writesReg_of_flags (formI_frame s r m) (pslRs_withCc _ _) (withCc_kept _ _) hcc

end Sys2Proof.Machine

open Sys2Proof Sys2Proof.Machine

/-! ### The statements -/

/-- Settles O38: both instructions are a move into R0 of a byte that is read before CC is rewritten. -/
theorem storeStatusCopiesToR0 : Obligations.StoreStatusCopiesToR0 :=
  fun s => ⟨load_writes_cc (o := ⟨s, s.psu &&& 0xE7, .r0, []⟩) (Frame.refl [] 0 s) _,
    load_writes_cc (o := ⟨s, s.psl, .r0, []⟩) (Frame.refl [] 0 s) _⟩

/-- Settles O39: CPSU and PPSU read PSU with bits 4:3 as 0, and the write makes them 0 again. -/
theorem upperStatusWrites : Obligations.UpperStatusWrites := by
  intro m s
  refine ⟨?lpsu, ?cpsu, ?ppsu⟩
  case lpsu => exact psuWrite_writesPsu (Frame.refl [] 0 s) rfl
  case cpsu => exact psuWrite_writesPsu (frame_nextArg [] 0 s) (and_mask_and_mask s.psu _ _)
  case ppsu => exact psuWrite_writesPsu (frame_nextArg [] 0 s) (or_and_mask s.psu m _)

/-- Settles O40: nothing but the argument fetch precedes the write of PSL. -/
theorem lowerStatusWrites : Obligations.LowerStatusWrites := by
  intro m s
  have writesAfterArg := setPsl_writesPsl (frame_nextArg [] 0 s) rfl rfl
  exact ⟨setPsl_writesPsl (Frame.refl [] 0 s) rfl rfl _, writesAfterArg _, writesAfterArg _⟩

/-- Settles O44: TPSU and TPSL change no register, so R0 may stand for the destination that TMI names. -/
theorem testsUnderMaskWriteCcAlone : Obligations.TestsUnderMaskWriteCcAlone :=
  fun r m s => ⟨test_writes_cc s .r0 _ m, test_writes_cc s .r0 _ m, test_writes_cc s r _ m⟩

/-- Settles O16: what CPSU leaves unchanged (O39) keeps the request asserted and the schedule empty, and with II clear
the interrupt entry (O14) follows. -/
theorem clearingInhibitTakesThePendingInterrupt : Obligations.ClearingInhibitTakesThePendingInterrupt := by
  intro s t mask hirq hevents hmask hexec
  obtain ⟨-, ⟨t', hexec', hpsu, -, -, -, -, -, hrest, -⟩, -⟩ := upperStatusWrites mask s
  obtain rfl : t = t' := Host.Outcome.next.inj (hexec.symm.trans hexec')
  obtain ⟨hhalted, hirq', -, -, -, hevents', -⟩ := hrest
  have hempty : t.arrived = [] := (congrArg (·.headD []) hevents').trans hevents
  have hii : psuIi t.psu = false := hpsu ▸ psuIi_of_mask_clears s.psu hmask
  obtain ⟨u, hstep, hras, -, hii', -, -, -, -, -, -, -, -, -, -, hir, -, hppc, -⟩ :=
    interruptEntrySavesAndChanges t hempty (hirq'.trans hirq) hii
  refine ⟨u, hstep, hii', hir, hppc, hras.trans (congrArg _ ?_)⟩
  rw [hhalted]
  cases s.halted
  · rfl
  · simp [State.pc, wrapAdd]

end

section
/-!
SUPPORT and PROOFS. The statements about branches (spec/46_branch.md R165 to R178, R190) and the return that undoes an
interrupt entry (R221): one rule each for the branch under a test, the branch that always transfers, and the branch that
steps its register first.
-/

namespace Sys2Proof.Machine

/-! ### Branches under a test (R166) -/

theorem branches_of_test_rel (s : State) (taken : Bool) (a : RelArg) :
    Branches (.next (s.branchRel taken a)) s [] taken (s.relEa a) 1 (fun _ => True) :=
  branches_branchRel (Frame.refl [] 0 s) rfl rfl rfl rfl rfl rfl taken a trivial

theorem branches_of_test_abs (s : State) (taken : Bool) (a : BraArg) :
    Branches (.next (s.branchAbs taken a)) s [] taken (s.braEa a) 2 (fun _ => True) :=
  branches_branchAbs (Frame.refl [] 0 s) rfl rfl rfl rfl rfl rfl taken a trivial

/-! ### Branches that always transfer (R171, R172) -/

/-- The transfer to an address whose calculator has changed nothing but the offset, EA and the record. -/
theorem branches_jump {s e : State} (hf : Frame [] 0 s e) (hr : e.rsel = s.rsel) (n : BitVec 13) :
    Branches (.next e.jump) s [] true e n (fun _ => True) :=
  ⟨e.jump, rfl, trivial, hf.trans (Frame.refl [] 0 e), hr, e.pc_jump, rfl, rfl⟩

/-! ### Branches that step their register (R175 to R178) -/

@[simp] theorem State.reg_branchRel (s : State) (taken : Bool) (a : RelArg) (q : Reg) :
    (s.branchRel taken a).reg q = s.reg q := by
  cases taken
  · exact s.reg_advance 1 q
  · exact (State.reg_jump _ q).trans (s.reg_relEa a q)

@[simp] theorem State.reg_branchAbs (s : State) (taken : Bool) (a : BraArg) (q : Reg) :
    (s.branchAbs taken a).reg q = s.reg q := by
  cases taken
  · exact s.reg_advance 2 q
  · exact (State.reg_jump _ q).trans (s.reg_braEa a q)

theorem State.reg_stepReg (s : State) (r : Reg) (k : Byte) : (s.stepReg r k).reg r = s.reg r + k :=
  s.reg_setReg r _

theorem frame_stepReg (s : State) (r : Reg) (k : Byte) : Frame [r] 0 s (s.stepReg r k) :=
  frame_setReg 0 s _ (List.mem_singleton_self r)

/-- The step by k reaches zero from -k alone, so the test of the new value is one of the old. -/
theorem branches_of_step_rel (s : State) (r : Reg) (k : Byte) (a : RelArg) :
    Branches (.next ((s.stepReg r k).branchRel ((s.stepReg r k).nonzero r) a)) s [r] (decide (s.reg r ≠ -k))
      (s.relEa a) 1 (fun t => t.reg r = s.reg r + k) := by
  rw [s.nonzero_stepReg]
  exact branches_branchRel (frame_stepReg s r k) (s.setReg_page r _) (s.setReg_offset r _) (s.setReg_ea r _)
    (s.setReg_rsel r _) (s.setReg_bus r _) (s.setReg_mem r _) _ a
    ((State.reg_branchRel _ _ a r).trans (s.reg_stepReg r k))

theorem branches_of_step_abs (s : State) (r : Reg) (k : Byte) (a : BraArg) :
    Branches (.next ((s.stepReg r k).branchAbs ((s.stepReg r k).nonzero r) a)) s [r] (decide (s.reg r ≠ -k))
      (s.braEa a) 2 (fun t => t.reg r = s.reg r + k) := by
  rw [s.nonzero_stepReg]
  exact branches_branchAbs (frame_stepReg s r k) (s.setReg_page r _) (s.setReg_offset r _) (s.setReg_ea r _)
    (s.setReg_rsel r _) (s.setReg_bus r _) (s.setReg_mem r _) _ a
    ((State.reg_branchAbs _ _ a r).trans (s.reg_stepReg r k))

/-! ### The return that undoes an interrupt entry (R221) -/

/-- SP, II and the bits outside both make up PSU. -/
theorem psu_eq_parts (u : Byte) :
    u = (u &&& 0xD8 : Byte) ||| (psuSp u).setWidth 8 ||| (BitVec.ofBool (psuIi u)).setWidth 8 <<< 5 := by
  revert u; decide +kernel

theorem psu_ext {u v : Byte} (hsp : psuSp u = psuSp v) (hii : psuIi u = psuIi v) (hrest : u &&& 0xD8 = v &&& 0xD8) :
    u = v := by
  rw [psu_eq_parts u, psu_eq_parts v, hsp, hii, hrest]

/-- What a register reads is settled by R0, the two banks and PSL (R12). -/
theorem State.reg_congr {s t : State} (hpsl : t.psl = s.psl) (hr0 : t.r0 = s.r0) (hbank0 : t.bank0 = s.bank0)
    (hbank1 : t.bank1 = s.bank1) (q : Reg) : t.reg q = s.reg q := by
  have hactive : t.activeBank = s.activeBank := by rw [State.activeBank, State.activeBank, hpsl, hbank0, hbank1]
  cases q
  · exact hr0
  all_goals simp only [State.reg, hactive]

theorem State.inactiveBank_congr {s t : State} (hpsl : t.psl = s.psl) (hbank0 : t.bank0 = s.bank0)
    (hbank1 : t.bank1 = s.bank1) : t.inactiveBank = s.inactiveBank := by
  rw [State.inactiveBank, State.inactiveBank, hpsl, hbank0, hbank1]

/-- The entry just written at SP is the one that SP names. -/
theorem State.getElem?_ras_set (s : State) (a : Addr) :
    (s.ras.toList.set (psuSp s.psu).toNat a)[(psuSp s.psu).toNat]? = some a :=
  List.getElem?_set_self (by rw [Vector.length_toList]; exact (psuSp s.psu).isLt)

end Sys2Proof.Machine

open Sys2Proof Sys2Proof.Machine

/-! ### The statements -/

/-- Settles O15: the entry (O14) stores the program counter at SP, and the return (O51) reads it there again, decrements
SP and clears II; the entry found II clear, and neither writes another bit of PSU, PSL, a register or memory. -/
theorem returnUndoesInterruptEntry : Obligations.ReturnUndoesInterruptEntry := by
  intro s t hevents hirq hii hrunning hstep
  obtain ⟨t', hentry, hras, hsp, -, hhigh, hrunning', -, -, hpsl, hr0, hbank0, hbank1, hmem, -⟩ :=
    interruptEntrySavesAndChanges s hevents hirq hii
  obtain rfl : t = t' := Host.Outcome.next.inj (hstep.symm.trans hentry)
  obtain ⟨-, u, hreturn, ⟨⟨hregs, hinactive⟩, hpsl', hmem', -, hhalted, -⟩, -, -, -, -, hpop⟩ :=
    returnsPopTheStack .always t
  obtain ⟨hpc, hsp', hii', hhigh'⟩ := hpop
  have hback : psuSp t.psu - 1 = psuSp s.psu := by rw [hsp, BitVec.add_sub_cancel]
  refine ⟨u, hreturn, ?_, ?_, hpsl'.trans hpsl, hhalted.trans hrunning', fun q => ?_, ?_, fun a => ?_⟩
  · rw [hback, hras, s.getElem?_ras_set, hrunning] at hpc
    exact Option.some.inj hpc
  · exact psu_ext (hsp'.trans hback) (hii'.trans hii.symm) (hhigh'.trans hhigh)
  · exact (hregs q List.not_mem_nil).trans (State.reg_congr hpsl hr0 hbank0 hbank1 q)
  · exact hinactive.trans (State.inactiveBank_congr hpsl hbank0 hbank1)
  · exact (hmem' a).trans (congrArg (·.read a.toNat) hmem)

/-- Settles O45: each is a relative or an absolute branch under its test. -/
theorem conditionalBranches : Obligations.ConditionalBranches := by
  intro v a b s
  have hTrue : condTrue v s.cc = decide (v = .always ∨ pslCc s.psl = v.bits) := condTrue_eq v s.cc
  have hFalse : condFalse v s.cc = decide (pslCc s.psl ≠ v.bits) := condFalse_eq v s.cc
  rw [← hTrue, ← hFalse]
  exact ⟨branches_of_test_rel s _ a, branches_of_test_abs s _ b, branches_of_test_rel s _ a,
    branches_of_test_abs s _ b⟩

/-- Settles O46: both form their address, with no register written, and jump. -/
theorem zeroPageAndIndexedBranches : Obligations.ZeroPageAndIndexedBranches :=
  fun a b s => ⟨branches_jump (frame_zeroEa [] 0 s a) (by rw [State.zeroEa_eq]) 1,
    branches_jump (frame_braIndexedEa [] 0 s b) (by simp [State.braIndexedEa, State.braEa_eq]) 2⟩

/-- Settles O47: both are branches under the test of the register. -/
theorem registerBranchesTestTheUnchangedValue : Obligations.RegisterBranchesTestTheUnchangedValue := by
  intro r a b s
  rw [← s.nonzero_eq r]
  exact ⟨branches_of_test_rel s _ a, branches_of_test_abs s _ b⟩

/-- Settles O48: the increment reaches zero from 0xFF and the decrement from 0x01. -/
theorem countingBranchesTestTheUpdatedValue : Obligations.CountingBranchesTestTheUpdatedValue := by
  intro r a b s
  rw [BitVec.sub_eq_add_neg]
  exact ⟨branches_of_step_rel s r 1 a, branches_of_step_abs s r 1 b, branches_of_step_rel s r (-1) a,
    branches_of_step_abs s r (-1) b⟩

end

section
/-!
SUPPORT and PROOFS. The statements about ports, NOP and the illegal opcodes (spec/47_io_misc.md R195 to R205): one rule
for a port read and one for a port write, each for the state f that is left once the argument, if any, is fetched.
-/

namespace Sys2Proof.Machine

/-! ### Port reads (R195 to R197) -/

/-- The byte that answers the read (R45; log 7). -/
theorem State.portByte_eq (s : State) : s.portByte = s.portIn.headD (Config.freeBusByte s.inputs) := by
  rw [State.portByte]
  cases s.portIn <;> rfl

/-- What is kept up to a port read is kept across it: both states hand over the same byte. -/
theorem Frame.portRead {regs : List Reg} {mask : Byte} {s f : State} (h : Frame regs mask s f) (p : Port) :
    Frame regs mask (s.portRead p) (f.portRead p) := by
  obtain ⟨hregs, hpsl, hstack, hmem, ⟨hportIn, hinputs⟩, hrest⟩ := h
  exact ⟨hregs, hpsl, hstack, hmem, ⟨congrArg List.tail hportIn, congrArg (· + 1) hinputs⟩, hrest⟩

/-- A port read is a move of the byte answered, in the frame of the state from which that byte has been taken (R201). -/
theorem load_portOperand_reads {s f : State} (hf : Frame [] 0 s f) (hea : f.ea = s.ea) (hrsel : f.rsel = s.rsel)
    (r : Reg) (p : Port) : ReadsPort (.next ((f.portOperand p).load r)) s f r p := by
  obtain ⟨t, ht, hreg, hcc, -, hframe, hpc, hea', hrsel', hbus⟩ :=
    load_writes_cc (o := ⟨f.portRead p, f.portByte, r, []⟩) (hf.portRead p) f.portByte
  obtain ⟨hregs, hpsl, hstack, hmem, ⟨hportIn, hinputs⟩, hrest⟩ := hframe
  have hbyte : f.portByte = s.portIn.headD (Config.freeBusByte s.inputs) := by
    obtain ⟨-, -, -, -, ⟨hcoming, hcount⟩, -⟩ := hf
    rw [State.portByte_eq, hcoming, hcount]
  exact ⟨t, ht, hreg.trans hbyte, hcc.trans (congrArg cc8 hbyte), hregs, hpsl, hstack, hmem, hrest, hportIn, hinputs,
    hpc, hea'.trans hea, hrsel'.trans hrsel, hbus⟩

/-! ### Port writes (R198 to R200) -/

/-- A port write adds its transfer to the record and changes nothing else (R201). -/
theorem portWrite_writes {s f : State} (hf : Frame [] 0 s f) (hea : f.ea = s.ea) (hrsel : f.rsel = s.rsel)
    (p : Port) (v : Byte) : WritesPort (.next (f.portWrite p v)) s f p v :=
  ⟨f.portWrite p v, rfl, hf.trans (Frame.refl [] 0 f), rfl, hea, hrsel, rfl⟩

end Sys2Proof.Machine

open Sys2Proof Sys2Proof.Machine

/-! ### The statements -/

/-- Settles O53: each is a move of the byte answered; REDE fetches its port byte first. -/
theorem portReads : Obligations.PortReads :=
  fun r port s => ⟨load_portOperand_reads (Frame.refl [] 0 s) rfl rfl r .control,
    load_portOperand_reads (Frame.refl [] 0 s) rfl rfl r .data,
    load_portOperand_reads (frame_nextArg [] 0 s) rfl rfl r (.extended port)⟩

/-- Settles O54: each is one port write; WRTE fetches its port byte first. -/
theorem portWrites : Obligations.PortWrites :=
  fun r port s => ⟨portWrite_writes (Frame.refl [] 0 s) rfl rfl .control (s.reg r),
    portWrite_writes (Frame.refl [] 0 s) rfl rfl .data (s.reg r),
    portWrite_writes (frame_nextArg [] 0 s) rfl rfl (.extended port) (s.reg r)⟩

/-- Settles O56: the ten opcodes are run with 0 as both argument bytes, at which an opcode of one byte does not look. -/
theorem nopAndIllegalDoNothing : Obligations.NopAndIllegalDoNothing := by
  refine ⟨fun op s => ⟨rfl, rfl⟩, fun op b1 b2 hop => ?_⟩
  have hmap : ∀ op ∈ illegalOpcodes, decodeBytes op 0 0 = .illegal op ∧ opcodeLength op = 1 := by decide +kernel
  obtain ⟨hdecode, hlen⟩ := hmap op hop
  refine ⟨?_, hlen⟩
  obtain ⟨-, hargs⟩ | ⟨hlen', -⟩ | hlen' := decodeBytes_unused_args op b1 b2
  · exact hargs.symm.trans hdecode
  · omega
  · omega

end
